-- ==== Sys2Proof/Word.lean ====
section
/-! DEFINITION. The word types of the Pema-Chip8 CORE (00_scope.md R6, R9): every value is an
unsigned number of a stated width. -/

namespace Sys2Proof

/-- A register index `x` or `y`, or the row count `n`: four bits (R12, R93). -/
abbrev Nibble := BitVec 4

/-- A byte: a general register, a memory byte, a timer, the immediate `kk` (R6). -/
abbrev Byte := BitVec 8

/-- A 12-bit address operand `nnn` (R12, R93). -/
abbrev Addr := BitVec 12

/-- A 16-bit value: an instruction word, PC, I, a return address (R6, R90). -/
abbrev Word := BitVec 16

/-- The key snapshot: bit `k` is logical key `k` (R7, R10, R37). -/
abbrev Keys := BitVec 16

end Sys2Proof
end

