-- ==== Sys2Proof/Machine/Flags.lean ====
section
/-! DEFINITION. The flag values written to VF and the 8-bit results they go with (42_alu.md R186 and its
table, 43_index_memory.md R211, 44_display.md R235). Each flag is computed from the operand values read at
the start. Results are computed on exact natural numbers and narrowed at the end (00_scope.md R9). -/

namespace Sys2Proof.Machine

/-- A flag is the byte 1 or 0. -/
def flagByte (b : Bool) : Byte := if b then 1 else 0

/-- `(a + b) mod 256`, of 7xkk and 8xy4 (R181, R187). -/
def addBytes (a b : Byte) : Byte := BitVec.ofNat 8 (a.toNat + b.toNat)

/-- The carry of 8xy4: 1 if `a + b > 255`, else 0 (R187). -/
def carryFlag (a b : Byte) : Byte := flagByte (decide (a.toNat + b.toNat > 255))

/-- `(a - b) mod 256`, of 8xy5 and, with its operands exchanged, of 8xy7 (R188, R190). -/
def subBytes (a b : Byte) : Byte := BitVec.ofInt 8 ((a.toNat : Int) - (b.toNat : Int))

/-- NOT borrow of `a - b`: 0 if the subtrahend `b` exceeds the minuend `a`, else 1 (R188, R190). -/
def notBorrowFlag (a b : Byte) : Byte := flagByte (!decide (b.toNat > a.toNat))

/-- `a >> 1` (R189). -/
def shiftRight (a : Byte) : Byte := a >>> 1

/-- The flag of 8xy6: bit 0 of the tested register (R189). -/
def shiftedOutRight (b : Byte) : Byte := flagByte (b.getLsbD 0)

/-- `(a << 1) mod 256` (R191). -/
def shiftLeft (a : Byte) : Byte := a <<< 1

/-- The flag of 8xyE: bit 7 of the tested register (R191). -/
def shiftedOutLeft (b : Byte) : Byte := flagByte (b.getLsbD 7)

/-- The exact sum `I + V[x]` of Fx1E (R211). -/
def indexSum (i : Word) (b : Byte) : Nat := i.toNat + b.toNat

/-- The overflow flag of Fx1E: 1 when the sum leaves 12 bits (R211). -/
def indexOverflowFlag (i : Word) (b : Byte) : Byte := flagByte (decide (indexSum i b > 0x0FFF))

end Sys2Proof.Machine
end

