-- ==== Sys2Proof/Syntax.lean ====
section
/-! DEFINITION. The instructions: one constructor per row of spec/opcode_table.json (30_encoding.md R101).
The operand types are exactly the fields of the encodings (R92, R93), so every term is an instruction some
word encodes. `u` is the field of bits the decoder ignores (R96); it is kept because a fault record and a
step result hold the whole instruction word (R135, R301). -/

namespace Sys2Proof

/-- The 34 instructions of R101. -/
inductive Instr where
  /-- `0uE0` CLS (R230). -/
  | cls (u : Nibble)
  /-- `0uEE` RET (R151). -/
  | ret (u : Nibble)
  /-- `1nnn` JP nnn (R152). -/
  | jp (nnn : Addr)
  /-- `2nnn` CALL nnn (R153). -/
  | call (nnn : Addr)
  /-- `3xkk` SE Vx, kk (R154). -/
  | seImm (x : Nibble) (kk : Byte)
  /-- `4xkk` SNE Vx, kk (R155). -/
  | sneImm (x : Nibble) (kk : Byte)
  /-- `5xyu` SE Vx, Vy (R156). -/
  | seReg (x y u : Nibble)
  /-- `6xkk` LD Vx, kk (R180). -/
  | ldImm (x : Nibble) (kk : Byte)
  /-- `7xkk` ADD Vx, kk (R181). -/
  | addImm (x : Nibble) (kk : Byte)
  /-- `8xy0` LD Vx, Vy (R182). -/
  | ldReg (x y : Nibble)
  /-- `8xy1` OR Vx, Vy (R183). -/
  | or (x y : Nibble)
  /-- `8xy2` AND Vx, Vy (R184). -/
  | and (x y : Nibble)
  /-- `8xy3` XOR Vx, Vy (R185). -/
  | xor (x y : Nibble)
  /-- `8xy4` ADD Vx, Vy (R187). -/
  | addReg (x y : Nibble)
  /-- `8xy5` SUB Vx, Vy (R188). -/
  | sub (x y : Nibble)
  /-- `8xy6` SHR Vx, Vy (R189). -/
  | shr (x y : Nibble)
  /-- `8xy7` SUBN Vx, Vy (R190). -/
  | subn (x y : Nibble)
  /-- `8xyE` SHL Vx, Vy (R191). -/
  | shl (x y : Nibble)
  /-- `9xyu` SNE Vx, Vy (R157). -/
  | sneReg (x y u : Nibble)
  /-- `Annn` LD I, nnn (R210). -/
  | ldI (nnn : Addr)
  /-- `Bnnn` JP V0, nnn (R158). -/
  | jpV0 (nnn : Addr)
  /-- `Cxkk` RND Vx, kk (R192). -/
  | rnd (x : Nibble) (kk : Byte)
  /-- `Dxyn` DRW Vx, Vy, n (R232). -/
  | drw (x y n : Nibble)
  /-- `Ex9E` SKP Vx (R250). -/
  | skp (x : Nibble)
  /-- `ExA1` SKNP Vx (R251). -/
  | sknp (x : Nibble)
  /-- `Fx07` LD Vx, DT (R252). -/
  | ldVxDt (x : Nibble)
  /-- `Fx0A` LD Vx, K (R255). -/
  | ldVxK (x : Nibble)
  /-- `Fx15` LD DT, Vx (R253). -/
  | ldDtVx (x : Nibble)
  /-- `Fx18` LD ST, Vx (R254). -/
  | ldStVx (x : Nibble)
  /-- `Fx1E` ADD I, Vx (R211). -/
  | addI (x : Nibble)
  /-- `Fx29` LD F, Vx (R212). -/
  | ldF (x : Nibble)
  /-- `Fx33` LD B, Vx (R213). -/
  | ldB (x : Nibble)
  /-- `Fx55` LD [I], Vx (R216). -/
  | ldMemVx (x : Nibble)
  /-- `Fx65` LD Vx, [I] (R217). -/
  | ldVxMem (x : Nibble)
  deriving DecidableEq, Repr

end Sys2Proof
end

