-- ==== Sys2Proof/Decode.lean ====
section
/-! DEFINITION. The decoder (30_encoding.md R93, R95, R96) and the encoder written from the same formats
(R92, R101). The word is 16 bits, fetched high byte first (R64, R90). -/

namespace Sys2Proof

/-- Why bytes are no instruction. -/
inductive Reject where
  /-- The word is one of the unknown encodings of R97; what a step does with it is R98. -/
  | unknown (op : Word)
  /-- Fewer than the two bytes every instruction has (R90). -/
  | truncated (got : Nat)
  deriving DecidableEq, Repr

/-- `t = op[15:12]`, the class (R93). -/
def fieldT (op : Word) : Nibble := op.extractLsb' 12 4

/-- `x = op[11:8]` (R93). -/
def fieldX (op : Word) : Nibble := op.extractLsb' 8 4

/-- `y = op[7:4]` (R93). -/
def fieldY (op : Word) : Nibble := op.extractLsb' 4 4

/-- `n = op[3:0]`, a count or a function nibble (R93). -/
def fieldN (op : Word) : Nibble := op.extractLsb' 0 4

/-- `kk = op[7:0]`, an immediate or a function byte (R93). -/
def fieldKK (op : Word) : Byte := op.extractLsb' 0 8

/-- `nnn = op[11:0]` (R93). -/
def fieldNNN (op : Word) : Addr := op.extractLsb' 0 12

/-- Class 0: only the bottom byte is compared (R95, R96). -/
def decodeClass0 (op : Word) : Except Reject Instr :=
  if fieldKK op = 0xE0#8 then .ok (.cls (fieldX op))
  else if fieldKK op = 0xEE#8 then .ok (.ret (fieldX op))
  else .error (.unknown op)

/-- Class 8: the bottom nibble is the function (R95). -/
def decodeClass8 (op : Word) : Except Reject Instr :=
  if fieldN op = 0x0#4 then .ok (.ldReg (fieldX op) (fieldY op))
  else if fieldN op = 0x1#4 then .ok (.or (fieldX op) (fieldY op))
  else if fieldN op = 0x2#4 then .ok (.and (fieldX op) (fieldY op))
  else if fieldN op = 0x3#4 then .ok (.xor (fieldX op) (fieldY op))
  else if fieldN op = 0x4#4 then .ok (.addReg (fieldX op) (fieldY op))
  else if fieldN op = 0x5#4 then .ok (.sub (fieldX op) (fieldY op))
  else if fieldN op = 0x6#4 then .ok (.shr (fieldX op) (fieldY op))
  else if fieldN op = 0x7#4 then .ok (.subn (fieldX op) (fieldY op))
  else if fieldN op = 0xE#4 then .ok (.shl (fieldX op) (fieldY op))
  else .error (.unknown op)

/-- Class E: the bottom byte is the function (R95). -/
def decodeClassE (op : Word) : Except Reject Instr :=
  if fieldKK op = 0x9E#8 then .ok (.skp (fieldX op))
  else if fieldKK op = 0xA1#8 then .ok (.sknp (fieldX op))
  else .error (.unknown op)

/-- Class F: the bottom byte is the function (R95). -/
def decodeClassF (op : Word) : Except Reject Instr :=
  if fieldKK op = 0x07#8 then .ok (.ldVxDt (fieldX op))
  else if fieldKK op = 0x0A#8 then .ok (.ldVxK (fieldX op))
  else if fieldKK op = 0x15#8 then .ok (.ldDtVx (fieldX op))
  else if fieldKK op = 0x18#8 then .ok (.ldStVx (fieldX op))
  else if fieldKK op = 0x1E#8 then .ok (.addI (fieldX op))
  else if fieldKK op = 0x29#8 then .ok (.ldF (fieldX op))
  else if fieldKK op = 0x33#8 then .ok (.ldB (fieldX op))
  else if fieldKK op = 0x55#8 then .ok (.ldMemVx (fieldX op))
  else if fieldKK op = 0x65#8 then .ok (.ldVxMem (fieldX op))
  else .error (.unknown op)

/-- `Decode(op)` of R95: total on every 16-bit word, by the class and then the function field. -/
def decodeWord (op : Word) : Except Reject Instr :=
  match (fieldT op).toNat with
  | 0x0 => decodeClass0 op
  | 0x1 => .ok (.jp (fieldNNN op))
  | 0x2 => .ok (.call (fieldNNN op))
  | 0x3 => .ok (.seImm (fieldX op) (fieldKK op))
  | 0x4 => .ok (.sneImm (fieldX op) (fieldKK op))
  | 0x5 => .ok (.seReg (fieldX op) (fieldY op) (fieldN op))
  | 0x6 => .ok (.ldImm (fieldX op) (fieldKK op))
  | 0x7 => .ok (.addImm (fieldX op) (fieldKK op))
  | 0x8 => decodeClass8 op
  | 0x9 => .ok (.sneReg (fieldX op) (fieldY op) (fieldN op))
  | 0xA => .ok (.ldI (fieldNNN op))
  | 0xB => .ok (.jpV0 (fieldNNN op))
  | 0xC => .ok (.rnd (fieldX op) (fieldKK op))
  | 0xD => .ok (.drw (fieldX op) (fieldY op) (fieldN op))
  | 0xE => decodeClassE op
  | _ => decodeClassF op

/-- The instruction word of two fetched bytes, "big-endian combine into a 16-bit instruction word"
(R64, R126): the first byte is bits 15:8. -/
def combine (hi lo : Byte) : Word := hi ++ lo

/-- The decoder on bytes: the first two are the instruction (R90), whatever follows. -/
def decode : List Byte → Except Reject Instr
  | hi :: lo :: _ => decodeWord (combine hi lo)
  | [_] => .error (.truncated 1)
  | [] => .error (.truncated 0)

/-- The word of an instruction, from the formats of R92 and the rows of R101. -/
def encode : Instr → Word
  | .cls u => 0x0#4 ++ u ++ 0xE0#8
  | .ret u => 0x0#4 ++ u ++ 0xEE#8
  | .jp nnn => 0x1#4 ++ nnn
  | .call nnn => 0x2#4 ++ nnn
  | .seImm x kk => 0x3#4 ++ x ++ kk
  | .sneImm x kk => 0x4#4 ++ x ++ kk
  | .seReg x y u => 0x5#4 ++ x ++ y ++ u
  | .ldImm x kk => 0x6#4 ++ x ++ kk
  | .addImm x kk => 0x7#4 ++ x ++ kk
  | .ldReg x y => 0x8#4 ++ x ++ y ++ 0x0#4
  | .or x y => 0x8#4 ++ x ++ y ++ 0x1#4
  | .and x y => 0x8#4 ++ x ++ y ++ 0x2#4
  | .xor x y => 0x8#4 ++ x ++ y ++ 0x3#4
  | .addReg x y => 0x8#4 ++ x ++ y ++ 0x4#4
  | .sub x y => 0x8#4 ++ x ++ y ++ 0x5#4
  | .shr x y => 0x8#4 ++ x ++ y ++ 0x6#4
  | .subn x y => 0x8#4 ++ x ++ y ++ 0x7#4
  | .shl x y => 0x8#4 ++ x ++ y ++ 0xE#4
  | .sneReg x y u => 0x9#4 ++ x ++ y ++ u
  | .ldI nnn => 0xA#4 ++ nnn
  | .jpV0 nnn => 0xB#4 ++ nnn
  | .rnd x kk => 0xC#4 ++ x ++ kk
  | .drw x y n => 0xD#4 ++ x ++ y ++ n
  | .skp x => 0xE#4 ++ x ++ 0x9E#8
  | .sknp x => 0xE#4 ++ x ++ 0xA1#8
  | .ldVxDt x => 0xF#4 ++ x ++ 0x07#8
  | .ldVxK x => 0xF#4 ++ x ++ 0x0A#8
  | .ldDtVx x => 0xF#4 ++ x ++ 0x15#8
  | .ldStVx x => 0xF#4 ++ x ++ 0x18#8
  | .addI x => 0xF#4 ++ x ++ 0x1E#8
  | .ldF x => 0xF#4 ++ x ++ 0x29#8
  | .ldB x => 0xF#4 ++ x ++ 0x33#8
  | .ldMemVx x => 0xF#4 ++ x ++ 0x55#8
  | .ldVxMem x => 0xF#4 ++ x ++ 0x65#8

/-- The high byte of a word: the byte at the lower address (R64). -/
def hiByte (op : Word) : Byte := op.extractLsb' 8 8

/-- The low byte of a word: the byte at the higher address (R64). -/
def loByte (op : Word) : Byte := op.extractLsb' 0 8

/-- The bytes of a word in memory order (R64). -/
def wordBytes (op : Word) : List Byte := [hiByte op, loByte op]

/-- The bytes of an instruction in memory order. -/
def encodeBytes (i : Instr) : List Byte := wordBytes (encode i)

/-- The word of an opcode-table row: bit 0 is the least significant bit of the one word an instruction
has, and bits from `nbits` on are 0. -/
def tableWord (nbits w : Nat) : Word := BitVec.ofNat 16 (w % 2 ^ nbits)

/-- What the decoder reads from an opcode-table word laid out as the hardware stores it. -/
def decodeTableWord (nbits w : Nat) : Option Instr :=
  match decode (wordBytes (tableWord nbits w)) with
  | .ok i => some i
  | .error _ => none

end Sys2Proof
end

