-- ==== Sys2Proof/Config.lean ====
section
/-! DEFINITION. What the hardware fixes (00_scope.md R6) and the two inputs the host supplies with every
step (40_step.md R120), which the spec leaves free. -/

namespace Sys2Proof

/-- MEM_SIZE: bytes of memory (R6). -/
def Config.memSize : Nat := 4096

/-- STACK_DEPTH: the most entries the call stack holds (R6). -/
def Config.stackDepth : Nat := 16

/-- PROG_BASE: the load address and the initial PC (R6). -/
def Config.progBase : Nat := 512

/-- MAX_ROM: the largest loadable image (R6). -/
def Config.maxRom : Nat := 3584

/-- FREE VALUE (log entry 1): the key snapshot the host supplies with its `n`-th polled step.
It has no body: nothing constrains what the host reports (R120, 92_eei_decisions.md D1). -/
opaque Config.keysAt : Nat → Keys

/-- FREE VALUE (log entry 1): the random byte drawn for the `n`-th polled step. It has no body: the
spec fixes no generator, seed or distribution (R192, 92_eei_decisions.md D2). -/
opaque Config.rndAt : Nat → Byte

end Sys2Proof
end

