-- ==== Sys2Proof/Machine/State.lean ====
section
/-! DEFINITION. The Machine State (10_state.md R20 to R43) as plain data, and the state after
construction. Field by field it is R20's table; the last four fields are the model's own. -/

namespace Sys2Proof.Machine

/-- Memory: the cells that differ from the reset contents, by strictly rising address (log entry 8).
What an unlisted address reads as is `Memory.initByte` (Machine/Ops.lean). -/
abbrev Memory := List Host.Cell

/-- The general registers V0 to VF (R22). -/
abbrev Regs := Vector Byte 16

/-- The framebuffer: 32 rows of 64 pixels, `true` is on (R34). -/
abbrev Frame := Vector (Vector Bool 64) 32

/-- The key-wait latch (R36). -/
inductive KeyWait where
  | notWaiting
  | waiting (r : Nibble)
  deriving DecidableEq, Repr

/-- The kind of a memory access (R63). -/
inductive AccessKind where
  | fetch
  | read
  | write
  deriving DecidableEq, Repr

/-- What went wrong in a step, with what the spec records of it (60_exceptions.md R300, R301). -/
inductive FaultCause where
  /-- Code 1. `addr` is the lowest address of the access at or above 4096. -/
  | outOfBounds (kind : AccessKind) (addr : Nat)
  /-- Code 2: a seventeenth call push (R32). -/
  | stackOverflow
  /-- Code 3: a return with an empty stack (R33). -/
  | stackUnderflow
  /-- Code 4: an unknown word in strict mode (R98). -/
  | unknownOpcode
  /-- Code 5: a key index above 15 (R250, R251). -/
  | badKeyIndex (key : Byte)
  deriving DecidableEq, Repr

/-- A fault record (R301): the cause, the PC of the step that faulted, and the instruction word, or
none for a fetch fault. -/
structure FaultRecord where
  cause : FaultCause
  pc : Word
  op : Option Word
  deriving DecidableEq, Repr

/-- The result of a step (40_step.md R135). -/
inductive StepResult where
  /-- No program is loaded (R121 guard 1). -/
  | notLoaded
  /-- A fault is latched (R121 guard 2). -/
  | halted (f : FaultRecord)
  /-- Waiting, and no key is down (R124). -/
  | idle
  /-- The wait ended with key `k` (R123). -/
  | resumed (k : Nibble)
  /-- An instruction or an unknown word ran (R130, R136). -/
  | executed (op : Word) (fbWritten : Bool)
  /-- A fault was raised in this step (R302). -/
  | fault (f : FaultRecord)
  deriving DecidableEq, Repr

/-- The host interface's fault outcome. The spec gives every fault of the core a next state (R302:
"the state after the step equals the state before it except for the fault latch"), so no meaning
and no step of this model ends in this outcome and the type has no constructor (log entry 4). -/
inductive Fault where
  deriving DecidableEq, Repr

/-- The host interface's refusal outcome. -/
inductive Refusal where
  /-- An instruction without a meaning, raised by its arm of `exec` alone; safe, since no state
  follows. No arm raises it: every instruction is modelled. -/
  | notModelled (mnemonic : String)
  deriving DecidableEq, Repr

/-- The state of the core (R20) and four fields of the model's own. -/
structure State where
  /-- `mem`, 4096 bytes (R21). -/
  mem : Memory
  /-- `V`, the general registers; V15 is VF (R22, R23). -/
  v : Regs
  /-- `I`, the index register (R25). -/
  i : Word
  /-- `PC`, the program counter (R26). -/
  pc : Word
  /-- `DT`, the delay timer (R29). -/
  dt : Byte
  /-- `ST`, the sound timer (R30). -/
  st : Byte
  /-- `stack`, the return addresses, top entry first; its length is the depth (R31). -/
  stack : List Word
  /-- `FB`, the framebuffer (R34). -/
  fb : Frame
  /-- `kw`, the key-wait latch (R36). -/
  kw : KeyWait
  /-- `KEYS`, the key snapshot latched for the current step (R37). -/
  keys : Keys
  /-- `fault`, the fault latch (R38). -/
  fault : Option FaultRecord
  /-- `loaded`, the program-loaded flag (R39). -/
  loaded : Bool
  /-- The parameter STRICT_UNKNOWN (R7, R98); no step changes it (log entry 2). -/
  strict : Bool
  /-- The random byte supplied with the current step, `rnd` of R120 (log entry 1). -/
  rnd : Byte
  /-- How many steps have consumed the host's two inputs: the index of the next inputs (log entry 1). -/
  polls : Nat
  /-- The result of the latest step, an output (R135, R137); none before the first (log entry 3). -/
  result : Option StepResult
  deriving DecidableEq, Repr

/-- The state after construction (R41, 70_reset_and_hazards.md R340): memory with nothing listed (the
font at 0 to 79, zero elsewhere), everything zero, PC = 0x200, nothing loaded. The values of the last
four fields are the model's (log entries 1 to 3). -/
def State.reset : State where
  mem := []
  v := Vector.replicate 16 0
  i := 0
  pc := 0x200
  dt := 0
  st := 0
  stack := []
  fb := Vector.replicate 32 (Vector.replicate 64 false)
  kw := .notWaiting
  keys := 0
  fault := none
  loaded := false
  strict := false
  rnd := 0
  polls := 0
  result := none

/-- What a meaning and a step answer. -/
abbrev Outcome := Host.Outcome State Fault Refusal

end Sys2Proof.Machine
end

