-- ==== Sys2Proof/Machine/Ops.lean ====
section
/-! DEFINITION. The named operations over memory, registers, call stack, framebuffer, keys and timers, and
the two ways an instruction ends: it completes (`finish`) or it raises a fault (`raise`). -/

namespace Sys2Proof.Machine

/-! ### Memory (20_memory.md) -/

/-- FONT_BYTES: 16 glyphs of 5 bytes, digits 0 to F, at addresses 0 to 79 (44_display.md R236, log entry 6). -/
def fontBytes : List Byte :=
  [0xF0, 0x90, 0x90, 0x90, 0xF0] ++ [0x20, 0x60, 0x20, 0x20, 0x70] ++
  [0xF0, 0x10, 0xF0, 0x80, 0xF0] ++ [0xF0, 0x10, 0xF0, 0x10, 0xF0] ++
  [0x90, 0x90, 0xF0, 0x10, 0x10] ++ [0xF0, 0x80, 0xF0, 0x10, 0xF0] ++
  [0xF0, 0x80, 0xF0, 0x90, 0xF0] ++ [0xF0, 0x10, 0x20, 0x40, 0x40] ++
  [0xF0, 0x90, 0xF0, 0x90, 0xF0] ++ [0xF0, 0x90, 0xF0, 0x10, 0xF0] ++
  [0xF0, 0x90, 0xF0, 0x90, 0x90] ++ [0xE0, 0x90, 0xE0, 0x90, 0xE0] ++
  [0xF0, 0x80, 0x80, 0x80, 0xF0] ++ [0xE0, 0x90, 0x90, 0x90, 0xE0] ++
  [0xF0, 0x80, 0xF0, 0x80, 0xF0] ++ [0xF0, 0x80, 0xF0, 0x80, 0x80]

/-- What a byte nothing has written since construction or load reads as: the font below 80, zero
elsewhere (R76, 10_state.md R41). -/
def Memory.initByte (a : Nat) : Byte := fontBytes.getD a 0

/-- The canonical form: addresses strictly rising from `lo`, inside the memory, and no entry equal to
what an unlisted address reads as. -/
def Memory.wfFrom (lo : Nat) : Memory → Bool
  | [] => true
  | (a, b) :: rest =>
    decide (lo ≤ a) && decide (a < Config.memSize) && decide (b ≠ Memory.initByte a) &&
      Memory.wfFrom (a + 1) rest

/-- The memory is in its canonical form. -/
def Memory.wf (m : Memory) : Bool := Memory.wfFrom 0 m

/-- The byte at address `a` (R67: reading changes nothing). -/
def Memory.read : Memory → Nat → Byte
  | [], a => Memory.initByte a
  | (k, b) :: rest, a => if k = a then b else Memory.read rest a

/-- The list without the cell of address `a`. -/
def Memory.erase : Memory → Nat → Memory
  | [], _ => []
  | (k, b) :: rest, a => if k = a then Memory.erase rest a else (k, b) :: Memory.erase rest a

/-- The list with the cell `(a, b)` put at its place in address order. -/
def Memory.insert : Memory → Nat → Byte → Memory
  | [], a, b => [(a, b)]
  | (k, c) :: rest, a, b =>
    if a < k then (a, b) :: (k, c) :: rest else (k, c) :: Memory.insert rest a b

/-- Write one byte. Writing the value an unlisted address reads as removes the cell, so equal
memories are equal lists. -/
def Memory.write (m : Memory) (a : Nat) (b : Byte) : Memory :=
  if b = Memory.initByte a then Memory.erase m a else Memory.insert (Memory.erase m a) a b

/-- The bytes at `a`, `a + 1`, ..., `a + n - 1`. -/
def Memory.readBytes (m : Memory) (a : Nat) : Nat → List Byte
  | 0 => []
  | n + 1 => Memory.read m a :: Memory.readBytes m (a + 1) n

/-- Write bytes at consecutive addresses from `a`, in order. -/
def Memory.writeBytes (m : Memory) (a : Nat) : List Byte → Memory
  | [] => m
  | b :: bs => Memory.writeBytes (Memory.write m a b) (a + 1) bs

/-- `Check(kind, a, n)` of R63: the whole range before any byte moves, exact arithmetic, no wrap; an
access of no byte is no access. -/
def check (kind : AccessKind) (a n : Nat) : Except FaultCause Unit :=
  if 1 ≤ n ∧ Config.memSize ≤ a + n - 1 then .error (.outOfBounds kind (max a Config.memSize))
  else .ok ()

/-- Replace the memory. -/
def State.setMem (s : State) (m : Memory) : State := { s with mem := m }

/-- `MemRead(a, n)` (R63, 00_scope.md R10). -/
def State.memRead (s : State) (kind : AccessKind) (a n : Nat) : Except FaultCause (List Byte) :=
  match check kind a n with
  | .ok _ => .ok (Memory.readBytes s.mem a n)
  | .error c => .error c

/-- `MemWrite(a, n, bytes)` with `n` the number of bytes (R63, 00_scope.md R10). -/
def State.memWrite (s : State) (a : Nat) (bytes : List Byte) : Except FaultCause State :=
  match check .write a bytes.length with
  | .ok _ => .ok (s.setMem (Memory.writeBytes s.mem a bytes))
  | .error c => .error c

/-! ### General registers (10_state.md R22, R23) -/

/-- Read `V[x]`. No register is hardwired. -/
def State.reg (s : State) (x : Nibble) : Byte := s.v[x.toNat]'x.isLt

/-- `V[x] <- b`. -/
def State.setReg (s : State) (x : Nibble) (b : Byte) : State :=
  { s with v := s.v.set x.toNat b x.isLt }

/-- The index of VF. -/
def regVF : Nibble := 0xF

/-- `VF <- b`. -/
def State.setVF (s : State) (b : Byte) : State := s.setReg regVF b

/-- `V[0], V[1], ..., V[x]`, the registers Fx55 stores (43_index_memory.md R216). -/
def State.regsUpTo (s : State) (x : Nibble) : List Byte := s.v.toList.take (x.toNat + 1)

/-- `V[k] <- b0, V[k+1] <- b1, ...`, in order; an index past VF names no register. -/
def Regs.fill (v : Regs) (k : Nat) : List Byte → Regs
  | [] => v
  | b :: bs => Regs.fill (v.setIfInBounds k b) (k + 1) bs

/-- The registers from V0 loaded with `bytes` (43_index_memory.md R217). -/
def State.fillRegs (s : State) (bytes : List Byte) : State :=
  { s with v := Regs.fill s.v 0 bytes }

/-! ### Index register, timers, key-wait (10_state.md R25, R29, R30, R36) -/

/-- `I <- w`. -/
def State.setI (s : State) (w : Word) : State := { s with i := w }

/-- `DT <- b`. -/
def State.setDT (s : State) (b : Byte) : State := { s with dt := b }

/-- `ST <- b`. -/
def State.setST (s : State) (b : Byte) : State := { s with st := b }

/-- `kw <- w`. -/
def State.setKw (s : State) (w : KeyWait) : State := { s with kw := w }

/-- One tick of a timer: down by 1, saturating at 0 (40_step.md R132). -/
def tick (t : Byte) : Byte := if t = 0 then 0 else t - 1

/-! ### Call stack (10_state.md R31 to R33) -/

/-- Replace the call stack. -/
def State.setStack (s : State) (entries : List Word) : State := { s with stack := entries }

/-- `Push(w)` (R32). -/
def State.push (s : State) (w : Word) : Except FaultCause State :=
  if Config.stackDepth ≤ s.stack.length then .error .stackOverflow
  else .ok (s.setStack (w :: s.stack))

/-- `Pop()` (R33): the top entry, and the state without it. -/
def State.pop (s : State) : Except FaultCause (Word × State) :=
  match s.stack with
  | [] => .error .stackUnderflow
  | w :: rest => .ok (w, s.setStack rest)

/-! ### Framebuffer (10_state.md R34, R35) -/

/-- Every pixel off. -/
def Frame.blank : Frame := Vector.replicate 32 (Vector.replicate 64 false)

/-- `FB[x][y]`. -/
def Frame.pixel (fb : Frame) (x : Fin 64) (y : Fin 32) : Bool := fb[y][x]

/-- `FB[x][y] <- not FB[x][y]`. -/
def Frame.toggle (fb : Frame) (x : Fin 64) (y : Fin 32) : Frame :=
  fb.set y (fb[y].set x (!fb[y][x]))

/-- Replace the framebuffer. -/
def State.setFb (s : State) (fb : Frame) : State := { s with fb := fb }

/-! ### Keys (10_state.md R37) -/

/-- `KEYS[k]`. -/
def keyDown (keys : Keys) (k : Nat) : Bool := keys.getLsbD k

/-- The least `k` of `k0, k0 + 1, ..., k0 + n - 1` that is down. -/
def firstKeyFrom (keys : Keys) (k0 : Nat) : Nat → Option Nat
  | 0 => none
  | n + 1 => if keyDown keys k0 then some k0 else firstKeyFrom keys (k0 + 1) n

/-- The scan of "the 16 logical keys in ascending index order" (40_step.md R123). -/
def firstKey (keys : Keys) : Option Nibble := (firstKeyFrom keys 0 16).map (BitVec.ofNat 4)

/-- The key latch (40_step.md R122); the inputs are consumed. -/
def State.latchKeys (s : State) (keys : Keys) : State := { s with keys := keys, polls := s.polls + 1 }

/-- The step's random byte made available to the instruction (40_step.md R120). -/
def State.latchRnd (s : State) (rnd : Byte) : State := { s with rnd := rnd }

/-! ### How a step ends (40_step.md R131 to R136, 60_exceptions.md R302) -/

/-- Report the result of a step to the host (R135). -/
def State.report (s : State) (r : StepResult) : State := { s with result := some r }

/-- Commit of an executed step: `PC <- next_pc` (R131), both timers tick (R132), and the result says
which word ran and whether it was a framebuffer instruction (R136). -/
def State.retire (s : State) (op : Word) (fbWritten : Bool) (nextPc : Word) : State :=
  { s with
    pc := nextPc
    dt := tick s.dt
    st := tick s.st
    result := some (.executed op fbWritten) }

/-- An instruction completes in the state `s` its writes left. -/
def finish (s : State) (op : Word) (fbWritten : Bool) (nextPc : Word) : Outcome :=
  .next (s.retire op fbWritten nextPc)

/-- TAKING A FAULT (R302): the latch is written and nothing else; the step reports the record. -/
def State.fail (s : State) (f : FaultRecord) : State :=
  { s with fault := some f, result := some (.fault f) }

/-- An instruction raises `c` in a state none of its writes has reached. The record holds the PC of
the step and the instruction word (R301). There is no return from a fault: nothing inside the core
clears the latch (R304, R311), only construction and load do (`loadProgram`). -/
def raise (s : State) (c : FaultCause) (op : Word) : Outcome :=
  .next (s.fail { cause := c, pc := s.pc, op := some op })

end Sys2Proof.Machine
end

