-- ==== Sys2Proof/Machine/Operands.lean ====
section
/-! DEFINITION. The operand forms (30_encoding.md R94): 12-bit addresses zero-extended, next-PC values,
addresses through I (43_index_memory.md R214, R215), sprite coordinates and bits (44_display.md R231, R233). -/

namespace Sys2Proof.Machine

/-- `zext_16(nnn)` (R94). -/
def zext (nnn : Addr) : Word := nnn.setWidth 16

/-- The default next PC, `(PC + 2) mod 2^16` (40_step.md R128). -/
def State.nextPc (s : State) : Word := s.pc + 2

/-- The next PC of a skip whose condition is `c`: `(PC + 4) mod 2^16` if it holds, else the default
(41_control_flow.md R150). -/
def State.skipPc (s : State) (c : Bool) : Word := if c then s.pc + 4 else s.nextPc

/-- The target of Bnnn: `zext_16(nnn) + zext_16(V[0])`, no mask (R158). -/
def State.offsetTarget (s : State) (nnn : Addr) : Word := zext nnn + (s.reg 0).setWidth 16

/-- The effective address of the first byte of a transfer (R214): byte `k` is at this plus `k`. -/
def State.effAddr (s : State) : Nat := s.i.toNat

/-- `(I + x + 1) & 0x0FFF`, I after a block transfer (R215). -/
def State.advancedI (s : State) (x : Nibble) : Word :=
  BitVec.ofNat 16 ((s.i.toNat + x.toNat + 1) % 4096)

/-- `5 * V[x]`, the address of a glyph (R212). -/
def glyphAddr (b : Byte) : Word := BitVec.ofNat 16 (5 * b.toNat)

/-- Hundreds, tens and units of a byte (R213). -/
def bcdDigits (b : Byte) : List Byte :=
  [BitVec.ofNat 8 (b.toNat / 100), BitVec.ofNat 8 (b.toNat / 10 % 10), BitVec.ofNat 8 (b.toNat % 10)]

/-- The column of sprite column `c` drawn at origin `cx`: `(cx + c) mod 64` (R231). -/
def wrapX (cx : Byte) (c : Nat) : Fin 64 := Fin.ofNat 64 (cx.toNat + c)

/-- The row of sprite row `r` drawn at origin `cy`: `(cy + r) mod 32` (R231). -/
def wrapY (cy : Byte) (r : Nat) : Fin 32 := Fin.ofNat 32 (cy.toNat + r)

/-- Column `c` of a sprite row is bit `7 - c` of its byte (R233). -/
def spriteBit (row : Byte) (c : Nat) : Bool := row.getLsbD (7 - c)

/-- The word at PC: the bounds check, then the bytes at PC and PC + 1, big-endian
(40_step.md R125, R126). -/
def State.fetch (s : State) : Except FaultCause Word :=
  match check .fetch s.pc.toNat 2 with
  | .ok _ => .ok (combine (Memory.read s.mem s.pc.toNat) (Memory.read s.mem (s.pc.toNat + 1)))
  | .error c => .error c

end Sys2Proof.Machine
end

