-- ==== Sys2Proof/Machine/Alu.lean ====
section
/-! DEFINITION. Register arithmetic and logic (42_alu.md): 6xkk 7xkk 8xy0 to 8xyE Cxkk. None can fault (R193).
Every operand is read before any write; a flag is written after the result, so with x = F the flag is
what remains (R11, R186). -/

namespace Sys2Proof.Machine

/-- `V[x] <- result`, then `VF <- flag` (R186). -/
def State.setRegFlag (s : State) (x : Nibble) (result flag : Byte) : State :=
  (s.setReg x result).setVF flag

/-- LD Vx, kk: `V[x] <- kk` (R180). -/
def execLdImm (x : Nibble) (kk : Byte) (s : State) : Outcome :=
  finish (s.setReg x kk) (encode (.ldImm x kk)) false s.nextPc

/-- ADD Vx, kk: `V[x] <- (V[x] + kk) mod 256`, VF not written (R181). -/
def execAddImm (x : Nibble) (kk : Byte) (s : State) : Outcome :=
  finish (s.setReg x (addBytes (s.reg x) kk)) (encode (.addImm x kk)) false s.nextPc

/-- LD Vx, Vy: `V[x] <- V[y]` (R182). -/
def execLdReg (x y : Nibble) (s : State) : Outcome :=
  finish (s.setReg x (s.reg y)) (encode (.ldReg x y)) false s.nextPc

/-- OR Vx, Vy: `V[x] <- V[x] | V[y]`, VF unchanged unless x = F (R183). -/
def execOr (x y : Nibble) (s : State) : Outcome :=
  finish (s.setReg x (s.reg x ||| s.reg y)) (encode (.or x y)) false s.nextPc

/-- AND Vx, Vy: `V[x] <- V[x] & V[y]`, VF unchanged unless x = F (R184). -/
def execAnd (x y : Nibble) (s : State) : Outcome :=
  finish (s.setReg x (s.reg x &&& s.reg y)) (encode (.and x y)) false s.nextPc

/-- XOR Vx, Vy: `V[x] <- V[x] ^ V[y]`, VF unchanged unless x = F (R185). -/
def execXor (x y : Nibble) (s : State) : Outcome :=
  finish (s.setReg x (s.reg x ^^^ s.reg y)) (encode (.xor x y)) false s.nextPc

/-- ADD Vx, Vy: the sum modulo 256, VF = carry (R187). -/
def execAddReg (x y : Nibble) (s : State) : Outcome :=
  finish (s.setRegFlag x (addBytes (s.reg x) (s.reg y)) (carryFlag (s.reg x) (s.reg y)))
    (encode (.addReg x y)) false s.nextPc

/-- SUB Vx, Vy: `Vx - Vy` modulo 256, VF = NOT borrow (R188). -/
def execSub (x y : Nibble) (s : State) : Outcome :=
  finish (s.setRegFlag x (subBytes (s.reg x) (s.reg y)) (notBorrowFlag (s.reg x) (s.reg y)))
    (encode (.sub x y)) false s.nextPc

/-- SHR Vx, Vy: Vx shifted, VF = bit 0 of the old Vy (R189, 90_conflicts.md C7). -/
def execShr (x y : Nibble) (s : State) : Outcome :=
  finish (s.setRegFlag x (shiftRight (s.reg x)) (shiftedOutRight (s.reg y)))
    (encode (.shr x y)) false s.nextPc

/-- SUBN Vx, Vy: `Vy - Vx` modulo 256, VF = NOT borrow with subtrahend Vx (R190). -/
def execSubn (x y : Nibble) (s : State) : Outcome :=
  finish (s.setRegFlag x (subBytes (s.reg y) (s.reg x)) (notBorrowFlag (s.reg y) (s.reg x)))
    (encode (.subn x y)) false s.nextPc

/-- SHL Vx, Vy: Vx shifted, VF = bit 7 of the old Vy (R191, 90_conflicts.md C7). -/
def execShl (x y : Nibble) (s : State) : Outcome :=
  finish (s.setRegFlag x (shiftLeft (s.reg x)) (shiftedOutLeft (s.reg y)))
    (encode (.shl x y)) false s.nextPc

/-- RND Vx, kk: `V[x] <- rnd & kk`, `rnd` the step's random byte, a free value (R192, log entry 1). -/
def execRnd (x : Nibble) (kk : Byte) (s : State) : Outcome :=
  finish (s.setReg x (s.rnd &&& kk)) (encode (.rnd x kk)) false s.nextPc

end Sys2Proof.Machine
end

