-- ==== Sys2Proof/Machine/Control.lean ====
section
/-! DEFINITION. Control flow (41_control_flow.md): 00EE 1nnn 2nnn 3xkk 4xkk 5xy0 9xy0 Bnnn. A target is taken as
it is, unchecked; the check happens at the next fetch (R129, R160). -/

namespace Sys2Proof.Machine

/-- RET: `next_pc <- Pop()`; StackUnderflow on an empty stack (R151). -/
def execRet (u : Nibble) (s : State) : Outcome :=
  match s.pop with
  | .ok (w, t) => finish t (encode (.ret u)) false w
  | .error c => raise s c (encode (.ret u))

/-- JP nnn: `next_pc <- zext_16(nnn)` (R152). -/
def execJp (nnn : Addr) (s : State) : Outcome :=
  finish s (encode (.jp nnn)) false (zext nnn)

/-- CALL nnn: `Push((PC + 2) mod 2^16)`, then `next_pc <- zext_16(nnn)`; StackOverflow when 16 entries
are held (R153). -/
def execCall (nnn : Addr) (s : State) : Outcome :=
  match s.push s.nextPc with
  | .ok t => finish t (encode (.call nnn)) false (zext nnn)
  | .error c => raise s c (encode (.call nnn))

/-- SE Vx, kk: skip if `V[x] = kk` (R154). -/
def execSeImm (x : Nibble) (kk : Byte) (s : State) : Outcome :=
  finish s (encode (.seImm x kk)) false (s.skipPc (s.reg x == kk))

/-- SNE Vx, kk: skip if `V[x] != kk` (R155). -/
def execSneImm (x : Nibble) (kk : Byte) (s : State) : Outcome :=
  finish s (encode (.sneImm x kk)) false (s.skipPc (s.reg x != kk))

/-- SE Vx, Vy: skip if `V[x] = V[y]` (R156). -/
def execSeReg (x y u : Nibble) (s : State) : Outcome :=
  finish s (encode (.seReg x y u)) false (s.skipPc (s.reg x == s.reg y))

/-- SNE Vx, Vy: skip if `V[x] != V[y]` (R157). -/
def execSneReg (x y u : Nibble) (s : State) : Outcome :=
  finish s (encode (.sneReg x y u)) false (s.skipPc (s.reg x != s.reg y))

/-- JP V0, nnn: `next_pc <- zext_16(nnn) + zext_16(V[0])` (R158). -/
def execJpV0 (nnn : Addr) (s : State) : Outcome :=
  finish s (encode (.jpV0 nnn)) false (s.offsetTarget nnn)

end Sys2Proof.Machine
end

