-- ==== Sys2Proof/Machine/Display.lean ====
section
/-! DEFINITION. The framebuffer and the sprite compositor (44_display.md): 00E0 Dxyn. -/

namespace Sys2Proof.Machine

/-- A drawing in progress: the picture, and whether a toggle has turned an on pixel off (`col` of R232). -/
structure Canvas where
  fb : Frame
  col : Bool
  deriving DecidableEq, Repr

/-- One set sprite bit: note the collision, toggle the pixel (R232, R235). -/
def plot (px : Fin 64) (py : Fin 32) (d : Canvas) : Canvas :=
  { fb := d.fb.toggle px py, col := d.col || d.fb.pixel px py }

/-- Sprite row `r` with byte `row`, columns 0 to 7 in order (R232, R233). -/
def drawRow (cx cy : Byte) (r : Nat) (row : Byte) (d : Canvas) : Canvas :=
  (List.range 8).foldl
    (fun d c => if spriteBit row c then plot (wrapX cx c) (wrapY cy r) d else d) d

/-- Sprite rows from `r` on, in order (R232). -/
def drawRows (cx cy : Byte) (r : Nat) : List Byte → Canvas → Canvas
  | [], d => d
  | row :: rows, d => drawRows cx cy (r + 1) rows (drawRow cx cy r row d)

/-- CLS: every pixel off (R230). -/
def execCls (u : Nibble) (s : State) : Outcome :=
  finish (s.setFb Frame.blank) (encode (.cls u)) true s.nextPc

/-- DRW Vx, Vy, n: `n` rows from `mem[I]` drawn at the origin (V[x], V[y]), then VF = collision; with
n = 0 no byte is read (R232). -/
def execDrw (x y n : Nibble) (s : State) : Outcome :=
  match s.memRead .read s.effAddr n.toNat with
  | .ok rows =>
    finish
      ((s.setFb (drawRows (s.reg x) (s.reg y) 0 rows { fb := s.fb, col := false }).fb).setVF
        (flagByte (drawRows (s.reg x) (s.reg y) 0 rows { fb := s.fb, col := false }).col))
      (encode (.drw x y n)) true s.nextPc
  | .error c => raise s c (encode (.drw x y n))

end Sys2Proof.Machine
end

