-- ==== Sys2Proof/Machine/Index.lean ====
section
/-! DEFINITION. The index register and memory transfer (43_index_memory.md): Annn Fx1E Fx29 Fx33 Fx55 Fx65. A
transfer that leaves memory raises OutOfBounds before any byte moves (20_memory.md R63). -/

namespace Sys2Proof.Machine

/-- LD I, nnn: `I <- zext_16(nnn)` (R210). -/
def execLdI (nnn : Addr) (s : State) : Outcome :=
  finish (s.setI (zext nnn)) (encode (.ldI nnn)) false s.nextPc

/-- ADD I, Vx: `I <- (I + V[x]) & 0x0FFF`, then `VF <- 1` if the sum leaves 12 bits, else 0 (R211). -/
def execAddI (x : Nibble) (s : State) : Outcome :=
  finish
    ((s.setI (BitVec.ofNat 16 (indexSum s.i (s.reg x) % 4096))).setVF
      (indexOverflowFlag s.i (s.reg x)))
    (encode (.addI x)) false s.nextPc

/-- LD F, Vx: `I <- 5 * V[x]` (R212). -/
def execLdF (x : Nibble) (s : State) : Outcome :=
  finish (s.setI (glyphAddr (s.reg x))) (encode (.ldF x)) false s.nextPc

/-- LD B, Vx: the decimal digits of `V[x]` to `mem[I..I+2]`; I unchanged (R213, R215). -/
def execLdB (x : Nibble) (s : State) : Outcome :=
  match s.memWrite s.effAddr (bcdDigits (s.reg x)) with
  | .ok t => finish t (encode (.ldB x)) false s.nextPc
  | .error c => raise s c (encode (.ldB x))

/-- LD [I], Vx: `V[0..x]` to `mem[I..I+x]`, then I advanced by x + 1 in 12 bits (R216). -/
def execLdMemVx (x : Nibble) (s : State) : Outcome :=
  match s.memWrite s.effAddr (s.regsUpTo x) with
  | .ok t => finish (t.setI (s.advancedI x)) (encode (.ldMemVx x)) false s.nextPc
  | .error c => raise s c (encode (.ldMemVx x))

/-- LD Vx, [I]: `mem[I..I+x]` to `V[0..x]`, then I advanced by x + 1 in 12 bits (R217). -/
def execLdVxMem (x : Nibble) (s : State) : Outcome :=
  match s.memRead .read s.effAddr (x.toNat + 1) with
  | .ok bytes => finish ((s.fillRegs bytes).setI (s.advancedI x)) (encode (.ldVxMem x)) false s.nextPc
  | .error c => raise s c (encode (.ldVxMem x))

end Sys2Proof.Machine
end

