-- ==== Sys2Proof/Machine/Input.lean ====
section
/-! DEFINITION. Keys and timers (45_input_timers.md): Ex9E ExA1 Fx07 Fx0A Fx15 Fx18, and the step of a waiting core
(40_step.md R123, R124). -/

namespace Sys2Proof.Machine

/-- The key index in `V[x]`: BadKeyIndex above 15 (R250, R251). -/
def State.keyIndex (s : State) (x : Nibble) : Except FaultCause Nat :=
  if (s.reg x).toNat > 15 then .error (.badKeyIndex (s.reg x)) else .ok (s.reg x).toNat

/-- SKP Vx: skip if key `V[x]` is down in this step's snapshot (R250). -/
def execSkp (x : Nibble) (s : State) : Outcome :=
  match s.keyIndex x with
  | .ok k => finish s (encode (.skp x)) false (s.skipPc (keyDown s.keys k))
  | .error c => raise s c (encode (.skp x))

/-- SKNP Vx: skip if key `V[x]` is not down in this step's snapshot (R251). -/
def execSknp (x : Nibble) (s : State) : Outcome :=
  match s.keyIndex x with
  | .ok k => finish s (encode (.sknp x)) false (s.skipPc (!keyDown s.keys k))
  | .error c => raise s c (encode (.sknp x))

/-- LD Vx, DT: `V[x] <- DT`, read before this step's tick (R252). -/
def execLdVxDt (x : Nibble) (s : State) : Outcome :=
  finish (s.setReg x s.dt) (encode (.ldVxDt x)) false s.nextPc

/-- LD Vx, K: `kw <- Waiting(x)`; no key is tested in this step (R255). -/
def execLdVxK (x : Nibble) (s : State) : Outcome :=
  finish (s.setKw (.waiting x)) (encode (.ldVxK x)) false s.nextPc

/-- LD DT, Vx: `DT <- V[x]`; the tick of the same step follows (R253). -/
def execLdDtVx (x : Nibble) (s : State) : Outcome :=
  finish (s.setDT (s.reg x)) (encode (.ldDtVx x)) false s.nextPc

/-- LD ST, Vx: `ST <- V[x]`; the tick of the same step follows (R254). -/
def execLdStVx (x : Nibble) (s : State) : Outcome :=
  finish (s.setST (s.reg x)) (encode (.ldStVx x)) false s.nextPc

/-- A step of a core waiting for register `r`, its keys latched (R123, R124): the least key down goes to
`V[r]` and the wait ends, or nothing changes. PC and the timers keep their values. -/
def State.waitStep (s : State) (r : Nibble) : State :=
  match firstKey s.keys with
  | some k => ((s.setReg r (k.setWidth 8)).setKw .notWaiting).report (.resumed k)
  | none => s.report .idle

end Sys2Proof.Machine
end

