-- ==== Sys2Proof/Machine/Cycle.lean ====
section
/-! DEFINITION. The one transition of the core with its inputs explicit, `Step(state, keys, rnd)` of 40_step.md
R120 and R139: guards, key latch, key-wait, fetch, decode, execute, commit. -/

namespace Sys2Proof.Machine

/-- An unknown word (30_encoding.md R98): a no-op that advances PC and ticks, or, in strict mode, the fault
UnknownOpcode. -/
def execUnknown (op : Word) (s : State) : Outcome :=
  if s.strict then raise s .unknownOpcode op else finish s op false s.nextPc

/-- What a step that faults leaves of the state `s` it started in (60_exceptions.md R302): `s` but for the
latch. The inputs were consumed (log entry 1). -/
def State.faulted (s : State) (f : FaultRecord) : State :=
  { s.fail f with polls := s.polls + 1 }

/-- The end of an executed step that started in `s`: the working copy is kept if no fault was raised,
and discarded if one was (R130, R139). -/
def State.commit (s : State) : Outcome → Outcome
  | .next t =>
    match t.fault with
    | none => .next t
    | some f => .next (s.faulted f)
  | .fault r => .fault r
  | .refused r => .refused r

/-- Execute the instruction or unknown word `op` decodes to (R127, R130). -/
def execWord (op : Word) (t : State) : Outcome :=
  match decodeWord op with
  | .ok i => exec i t
  | .error _ => execUnknown op t

/-- Fetch, decode, execute, commit, on the working copy `t` of `s` (R125 to R132). A fetch fault records
no instruction word (R301). -/
def State.fetchExecute (s t : State) : Outcome :=
  match t.fetch with
  | .ok op => s.commit (execWord op t)
  | .error c => .next (s.faulted { cause := c, pc := s.pc, op := none })

/-- `Step(s, keys, rnd)` (R120, R121 to R124, R139). -/
def stepWith (keys : Keys) (rnd : Byte) (s : State) : Outcome :=
  if s.loaded then
    match s.fault with
    | some f => .next (s.report (.halted f))
    | none =>
      match s.kw with
      | .waiting r => .next ((s.latchKeys keys).waitStep r)
      | .notWaiting => s.fetchExecute ((s.latchKeys keys).latchRnd rnd)
  else .next (s.report .notLoaded)

/-- The state with `op` where the next step fetches, and nothing in that step's way: a program is
loaded, no fault is latched, no key is awaited, and PC is where two bytes can be fetched (log entry 5). -/
def State.placeWord (s : State) (op : Word) : State :=
  let pc := if s.pc.toNat + 1 < Config.memSize then s.pc else BitVec.ofNat 16 Config.progBase
  { s with
    pc := pc
    mem := Memory.writeBytes s.mem pc.toNat (wordBytes op)
    loaded := true
    fault := none
    kw := .notWaiting }

end Sys2Proof.Machine
end

