-- ==== Sys2Proof/Machine/Step.lean ====
section
/-! DEFINITION. The step of the host's interface: `stepWith` on the inputs of this step, which are free values
(log entry 1). -/

namespace Sys2Proof.Machine

/-- One call of the engine's entry point (40_step.md R120), the host's inputs free. -/
def step (s : State) : Host.Outcome State Fault Refusal :=
  stepWith (Config.keysAt s.polls) (Config.rndAt s.polls) s

/-- `s` with an opcode-table word placed so that the very next step runs it (log entry 5). -/
def State.withFetchWord (s : State) (nbits w : Nat) : State :=
  s.placeWord (tableWord nbits w)

end Sys2Proof.Machine
end

