-- ==== Sys2Proof/WellFormed.lean ====
section
/-! DEFINITION. The checks on what comes from outside. An `Instr` needs none to be encodable: its operand
types admit exactly the values the fields hold, so no ill-formed instruction can be written. What can be
checked is whether a term is the assembler's spelling of its word, and whether an image fits. -/

namespace Sys2Proof

/-- The term an assembler writes: the bits the decoder ignores are 0 (30_encoding.md R102). Every other
term is executed as well (R96); it only has another word. -/
def Instr.canonical : Instr → Bool
  | .cls u => u == 0
  | .ret u => u == 0
  | .seReg _ _ u => u == 0
  | .sneReg _ _ u => u == 0
  | .jp _ => true
  | .call _ => true
  | .seImm _ _ => true
  | .sneImm _ _ => true
  | .ldImm _ _ => true
  | .addImm _ _ => true
  | .ldReg _ _ => true
  | .or _ _ => true
  | .and _ _ => true
  | .xor _ _ => true
  | .addReg _ _ => true
  | .sub _ _ => true
  | .shr _ _ => true
  | .subn _ _ => true
  | .shl _ _ => true
  | .ldI _ => true
  | .jpV0 _ => true
  | .rnd _ _ => true
  | .drw _ _ _ => true
  | .skp _ => true
  | .sknp _ => true
  | .ldVxDt _ => true
  | .ldVxK _ => true
  | .ldDtVx _ => true
  | .ldStVx _ => true
  | .addI _ => true
  | .ldF _ => true
  | .ldB _ => true
  | .ldMemVx _ => true
  | .ldVxMem _ => true

/-- A program image: "a raw byte sequence ... no header, no metadata" (70_reset_and_hazards.md R343). -/
abbrev Image := List Byte

/-- The size check of a load, the only check it makes (R341, R343). -/
def Image.fits (rom : Image) : Bool := decide (rom.length ≤ Config.maxRom)

end Sys2Proof
end

