-- ==== Sys2Proof/Machine/Load.lean ====
section
/-! DEFINITION. Construction and program load (70_reset_and_hazards.md R340 to R344), the host's action between
steps (R355) and the reset of this hardware (R342). -/

namespace Sys2Proof.Machine

/-- The program-load operation's result (70_reset_and_hazards.md R341, R342). -/
inductive LoadResult where
  | ok
  | programTooLarge
  deriving DecidableEq, Repr

/-- Construction-time state (10_state.md R41). The parameter and the count of consumed inputs are not
the machine's and stay (log entries 1, 2). -/
def State.construct (s : State) : State :=
  { State.reset with strict := s.strict, polls := s.polls }

/-- `load(rom_bytes)`, an action of the host between steps (R341, R342, R355): the construction state,
and for an image that fits, the image at 512 and `loaded`. -/
def loadProgram (rom : Image) (s : State) : LoadResult × State :=
  if rom.fits then
    (.ok,
      { s.construct with
        mem := Memory.writeBytes s.construct.mem Config.progBase rom
        loaded := true })
  else (.programTooLarge, s.construct)

end Sys2Proof.Machine
end

