-- ==== Sys2Proof/Machine/Output.lean ====
section
/-! DEFINITION. What the host reads of the core between steps (40_step.md R137): the picture, the sound timer,
the step result; and the numbers of the fault codes (60_exceptions.md R300). -/

namespace Sys2Proof.Machine

/-- The code of a fault (R300). -/
def faultCode : FaultCause → Nat
  | .outOfBounds _ _ => 1
  | .stackOverflow => 2
  | .stackUnderflow => 3
  | .unknownOpcode => 4
  | .badKeyIndex _ => 5

/-- The bits `f 0, f 1, ..., f (n - 1)`, bit 0 least significant. -/
def bitsOf (f : Nat → Bool) : (n : Nat) → BitVec n
  | 0 => 0#0
  | n + 1 => BitVec.cons (f n) (bitsOf f n)

/-- The framebuffer read as one vector: pixel (x, y) is bit `y * 64 + x` (44_display.md R234). -/
def Frame.bits (fb : Frame) : BitVec 2048 :=
  bitsOf (fun k => fb.pixel (Fin.ofNat 64 k) (Fin.ofNat 32 (k / 64))) 2048

/-- The outputs of the core (R137). -/
structure Outputs where
  picture : BitVec 2048
  sound : Byte
  result : Option StepResult
  deriving DecidableEq, Repr

/-- What the host reads. -/
def State.outputs (s : State) : Outputs := { picture := s.fb.bits, sound := s.st, result := s.result }

/-- A sound is on (45_input_timers.md R257). -/
def State.soundOn (s : State) : Bool := decide (s.st.toNat > 0)

end Sys2Proof.Machine
end

