-- ==== Sys2Proof/Safety.lean ====
section
/-! DEFINITION. The terms the statements are written in: what a completing and a faulting instruction leave
alone, which words an encoding names, which pixels a sprite covers, and the invariant of the machine. -/

namespace Sys2Proof.Machine

/-! ### Parts of the state left unchanged -/

/-- Every general register reads as before. -/
def SameRegs (s t : State) : Prop := ∀ k, t.reg k = s.reg k

/-- Every byte of memory reads as before. -/
def SameMemory (s t : State) : Prop := ∀ a, Memory.read t.mem a = Memory.read s.mem a

/-- Every pixel is as before. -/
def SamePicture (s t : State) : Prop := ∀ x y, t.fb.pixel x y = s.fb.pixel x y

/-- Both timers have ticked and nothing else wrote them: one down, saturating at 0 (R132). -/
def TimersTicked (s t : State) : Prop :=
  t.dt.toNat = s.dt.toNat - 1 ∧ t.st.toNat = s.st.toNat - 1

/-- The fields no instruction writes when it completes: the key snapshot, the fault latch, the loaded
flag, the parameter, the random byte and the count of inputs. -/
def SameInputs (s t : State) : Prop :=
  t.keys = s.keys ∧ t.fault = s.fault ∧ t.loaded = s.loaded ∧ t.strict = s.strict ∧
    t.rnd = s.rnd ∧ t.polls = s.polls

/-- Nothing but general registers, PC, the ticking timers and the step result has changed. -/
def OnlyRegs (s t : State) : Prop :=
  SameMemory s t ∧ SamePicture s t ∧ t.i = s.i ∧ t.stack = s.stack ∧ t.kw = s.kw ∧
    TimersTicked s t ∧ SameInputs s t

/-- Nothing but PC, the ticking timers and the step result has changed. -/
def OnlyPc (s t : State) : Prop := SameRegs s t ∧ OnlyRegs s t

/-- Nothing but general registers, I, PC, the ticking timers and the step result has changed. -/
def OnlyRegsIndex (s t : State) : Prop :=
  SameMemory s t ∧ SamePicture s t ∧ t.stack = s.stack ∧ t.kw = s.kw ∧ TimersTicked s t ∧
    SameInputs s t

/-- Nothing but memory, I, PC, the ticking timers and the step result has changed. -/
def OnlyMemoryIndex (s t : State) : Prop :=
  SameRegs s t ∧ SamePicture s t ∧ t.stack = s.stack ∧ t.kw = s.kw ∧ TimersTicked s t ∧
    SameInputs s t

/-- Nothing but the picture, general registers, PC, the ticking timers and the step result has
changed. -/
def OnlyPictureRegs (s t : State) : Prop :=
  SameMemory s t ∧ t.i = s.i ∧ t.stack = s.stack ∧ t.kw = s.kw ∧ TimersTicked s t ∧
    SameInputs s t

/-- Nothing but the call stack, PC, the ticking timers and the step result has changed. -/
def OnlyStack (s t : State) : Prop :=
  SameRegs s t ∧ SameMemory s t ∧ SamePicture s t ∧ t.i = s.i ∧ t.kw = s.kw ∧
    TimersTicked s t ∧ SameInputs s t

/-! ### How an instruction ends -/

/-- `i` completes in `t`, with `nextPc` committed (R131) and the result naming its word (R135, R136). -/
def Completes (i : Instr) (fbWritten : Bool) (nextPc : Word) (s t : State) : Prop :=
  exec i s = .next t ∧ t.pc = nextPc ∧ t.result = some (.executed (encode i) fbWritten)

/-- The record of a fault `c` raised at `s` by the word `op` (R301). -/
def recordAt (s : State) (c : FaultCause) (op : Option Word) : FaultRecord :=
  { cause := c, pc := s.pc, op := op }

/-- `i` raises `c`: the next state is `s` but for the fault latch, and the result reports the record
(R302). -/
def Raises (i : Instr) (c : FaultCause) (s : State) : Prop :=
  exec i s = .next
    { s with
      fault := some (recordAt s c (some (encode i)))
      result := some (.fault (recordAt s c (some (encode i)))) }

/-! ### What an instruction may write -/

/-- The instructions that write VF as a side effect (R23): carry, NOT borrow, shifted-out bit,
collision, index overflow. -/
def writesFlag : Instr → Bool
  | .addReg _ _ => true
  | .sub _ _ => true
  | .shr _ _ => true
  | .subn _ _ => true
  | .shl _ _ => true
  | .drw _ _ _ => true
  | .addI _ => true
  | .cls _ | .ret _ | .jp _ | .call _ | .seImm _ _ | .sneImm _ _ | .seReg _ _ _ | .ldImm _ _
  | .addImm _ _ | .ldReg _ _ | .or _ _ | .and _ _ | .xor _ _ | .sneReg _ _ _ | .ldI _ | .jpV0 _
  | .rnd _ _ | .skp _ | .sknp _ | .ldVxDt _ | .ldVxK _ | .ldDtVx _ | .ldStVx _ | .ldF _ | .ldB _
  | .ldMemVx _ | .ldVxMem _ => false

/-- Register `k` is a named destination: `V[x]` of a form that writes it, or one of `V[0..x]` of Fx65
(R22). -/
def namesDest (i : Instr) (k : Nibble) : Bool :=
  match i with
  | .ldImm x _ => k == x
  | .addImm x _ => k == x
  | .ldReg x _ => k == x
  | .or x _ => k == x
  | .and x _ => k == x
  | .xor x _ => k == x
  | .addReg x _ => k == x
  | .sub x _ => k == x
  | .shr x _ => k == x
  | .subn x _ => k == x
  | .shl x _ => k == x
  | .rnd x _ => k == x
  | .ldVxDt x => k == x
  | .ldVxMem x => decide (k.toNat ≤ x.toNat)
  | .cls _ | .ret _ | .jp _ | .call _ | .seImm _ _ | .sneImm _ _ | .seReg _ _ _ | .sneReg _ _ _
  | .ldI _ | .jpV0 _ | .drw _ _ _ | .skp _ | .sknp _ | .ldVxK _ | .ldDtVx _ | .ldStVx _ | .addI _
  | .ldF _ | .ldB _ | .ldMemVx _ => false

/-- The instructions that write I (R25). -/
def writesIndex : Instr → Bool
  | .ldI _ => true
  | .addI _ => true
  | .ldF _ => true
  | .ldMemVx _ => true
  | .ldVxMem _ => true
  | .cls _ | .ret _ | .jp _ | .call _ | .seImm _ _ | .sneImm _ _ | .seReg _ _ _ | .ldImm _ _
  | .addImm _ _ | .ldReg _ _ | .or _ _ | .and _ _ | .xor _ _ | .addReg _ _ | .sub _ _ | .shr _ _
  | .subn _ _ | .shl _ _ | .sneReg _ _ _ | .jpV0 _ | .rnd _ _ | .drw _ _ _ | .skp _ | .sknp _
  | .ldVxDt _ | .ldVxK _ | .ldDtVx _ | .ldStVx _ | .ldB _ => false

/-! ### Encodings -/

/-- Every word that agrees with `pattern` on the bits of `mask` decodes to the instruction `f` builds
from it. -/
def EncodedBy (mask pattern : Word) (f : Word → Instr) : Prop :=
  ∀ op : Word, op &&& mask = pattern → decodeWord op = .ok (f op)

/-- The word at PC (R126). -/
def wordAtPc (s : State) : Word :=
  combine (Memory.read s.mem s.pc.toNat) (Memory.read s.mem (s.pc.toNat + 1))

/-- A step of `s` gets past the guards, the key-wait and the fetch check (R121, R123, R125). -/
def ReadyToExecute (s : State) : Prop :=
  s.loaded = true ∧ s.fault = none ∧ s.kw = .notWaiting ∧ s.pc.toNat + 1 < 4096

/-- The steps of `s` on the inputs listed, in order (R120, R355). -/
def runWith : List (Keys × Byte) → State → Outcome
  | [], s => .next s
  | (keys, rnd) :: rest, s =>
    match stepWith keys rnd s with
    | .next t => runWith rest t
    | .fault r => .fault r
    | .refused r => .refused r

/-- The step from `s` to `t` ends the run in the sense of R353: it returned Fault or Halted, or it
executed a jump to its own address. -/
def endsRun (s t : State) : Bool :=
  match t.result with
  | some (.fault _) => true
  | some (.halted _) => true
  | some (.executed op _) =>
    match decodeWord op with
    | .ok (.jp nnn) => zext nnn == s.pc
    | _ => false
  | some .notLoaded => false
  | some .idle => false
  | some (.resumed _) => false
  | none => false

/-! ### Sprites -/

/-- The pixel (px, py) lies under a set bit of the sprite of `n` rows at I drawn at (V[x], V[y]):
some row `r` and column `c` with bit `7 - c` of byte `I + r` set land on it, modulo 64 and 32
(R231, R233). -/
def SpriteCovers (s : State) (x y n : Nibble) (px : Fin 64) (py : Fin 32) : Prop :=
  ∃ r < n.toNat, ∃ c < 8,
    (Memory.read s.mem (s.i.toNat + r)).getLsbD (7 - c) = true ∧
      px.val = ((s.reg x).toNat + c) % 64 ∧ py.val = ((s.reg y).toNat + r) % 32

/-! ### The invariant -/

/-- The invariant of the machine: memory in its canonical form inside 0 to 4095; at most 16 return
addresses (R31), each an address a CALL can push; `I <= 0x0FFF` (R44); PC at most 0x10FE (R28); and
a latched fault holds the PC at which the core stopped, outside any key-wait (R303, R305). -/
structure State.Inv (s : State) : Prop where
  mem_canonical : Memory.wf s.mem = true
  stack_bounded : s.stack.length ≤ 16
  stack_entries : ∀ w ∈ s.stack, w.toNat ≤ 0x1000
  index_bounded : s.i.toNat ≤ 0x0FFF
  pc_bounded : s.pc.toNat ≤ 0x10FE
  fault_precise : ∀ f, s.fault = some f → f.pc = s.pc ∧ s.kw = .notWaiting

end Sys2Proof.Machine
end

