-- ==== Sys2Proof/Certificates/Slice0/Obligations.lean ====
section
/-! DEFINITION. The statements for the provers, from the numbered rules of spec/. A statement that rests
on a decision the spec marks as its own (D of 92_eei_decisions.md), on a conflict's resolution (C of
90_conflicts.md) or on general knowledge (G of 93_implementation_defined.md) names it in its docstring and
is listed as derived. -/

open Sys2Proof Sys2Proof.Machine

/-! ### Encoding (30_encoding.md) -/

/-- Decoding the encoding of any instruction gives it back, with every operand at every value. -/
def Obligations.DecodeOfEncode : Prop := ∀ i : Instr, decodeWord (encode i) = .ok i

/-- A word that decodes to an instruction is that instruction's encoding: no bit of the word is lost,
the ignored bits of R96 included. -/
def Obligations.EncodeOfDecode : Prop :=
  ∀ (op : Word) (i : Instr), decodeWord op = .ok i → encode i = op

/-- The unknown encodings are the words R97 lists by class and function field, and every other word
decodes to an instruction. The counts of R97 are not stated. Rests on D3 for the fields compared. -/
def Obligations.UnknownEncodingsClassified : Prop :=
  ∀ op : Word,
    if (op.toNat / 4096 = 0x0 ∧ op.toNat % 256 ∉ [0xE0, 0xEE]) ∨
        (op.toNat / 4096 = 0x8 ∧ op.toNat % 16 ∈ [0x8, 0x9, 0xA, 0xB, 0xC, 0xD, 0xF]) ∨
        (op.toNat / 4096 = 0xE ∧ op.toNat % 256 ∉ [0x9E, 0xA1]) ∨
        (op.toNat / 4096 = 0xF ∧
          op.toNat % 256 ∉ [0x07, 0x0A, 0x15, 0x18, 0x1E, 0x29, 0x33, 0x55, 0x65]) then
      decodeWord op = .error (.unknown op)
    else ∃ i, decodeWord op = .ok i

/-- The fields of a word are the bits R93 names: t 15:12, x 11:8, y 7:4, n 3:0, kk 7:0, nnn 11:0. -/
def Obligations.FieldsAreTheNamedBits : Prop :=
  ∀ op : Word,
    (fieldT op).toNat = op.toNat / 4096 ∧ (fieldX op).toNat = op.toNat / 256 % 16 ∧
      (fieldY op).toNat = op.toNat / 16 % 16 ∧ (fieldN op).toNat = op.toNat % 16 ∧
      (fieldKK op).toNat = op.toNat % 256 ∧ (fieldNNN op).toNat = op.toNat % 4096

/-- Words of the spec's own programs and examples decode to the instructions they stand for, one of
each family. A sanity statement. Rests on D3 for the ignored bits (0x05EE, 0x5121) and on D27 and the G
passages of 93_implementation_defined.md for most encodings (log entry 7). -/
def Obligations.ExampleWordsDecode : Prop :=
  decodeWord 0x00E0 = .ok (.cls 0) ∧ decodeWord 0x05EE = .ok (.ret 5) ∧
    decodeWord 0x1204 = .ok (.jp 0x204) ∧ decodeWord 0x2210 = .ok (.call 0x210) ∧
    decodeWord 0x3100 = .ok (.seImm 1 0x00) ∧ decodeWord 0x5121 = .ok (.seReg 1 2 1) ∧
    decodeWord 0x6A3F = .ok (.ldImm 0xA 0x3F) ∧ decodeWord 0x8126 = .ok (.shr 1 2) ∧
    decodeWord 0xA300 = .ok (.ldI 0x300) ∧ decodeWord 0xC30F = .ok (.rnd 3 0x0F) ∧
    decodeWord 0xDAB5 = .ok (.drw 0xA 0xB 5) ∧ decodeWord 0xE49E = .ok (.skp 4) ∧
    decodeWord 0xF315 = .ok (.ldDtVx 3) ∧ decodeWord 0xF265 = .ok (.ldVxMem 2) ∧
    decodeWord 0x0123 = .error (.unknown 0x0123) ∧ decodeWord 0x8128 = .error (.unknown 0x8128)

/-- R126: inside memory, the fetched word is `(mem[PC] << 8) | mem[PC+1]`, at an odd PC as well. Rests on
D9 and C3 for an odd PC (R27, R66, log entry 7). -/
def Obligations.FetchCombinesBigEndian : Prop :=
  ∀ s : State, s.pc.toNat + 1 < 4096 →
    s.fetch = .ok (((Memory.read s.mem s.pc.toNat).setWidth 16 <<< 8) |||
      (Memory.read s.mem (s.pc.toNat + 1)).setWidth 16)

/-! ### Control flow (41_control_flow.md) -/

/-- R151: RET takes the top return address as the next PC and removes it; on an empty stack it raises
StackUnderflow. Rests on D3 (bits 11:8 ignored), D10, D14, G2. -/
def Obligations.RetPopsReturnAddress : Prop :=
  EncodedBy 0xF0FF 0x00EE (fun op => .ret (fieldX op)) ∧
    ∀ (u : Nibble) (s : State),
      (∀ w rest, s.stack = w :: rest →
        ∃ t, Completes (.ret u) false w s t ∧ t.stack = rest ∧ OnlyStack s t) ∧
      (s.stack = [] → Raises (.ret u) .stackUnderflow s)

/-- R152: JP sets PC to the 12-bit address, zero-extended. Rests on G3. -/
def Obligations.JpSetsPc : Prop :=
  EncodedBy 0xF000 0x1000 (fun op => .jp (fieldNNN op)) ∧
    ∀ (nnn : Addr) (s : State),
      ∃ t, Completes (.jp nnn) false (nnn.zeroExtend 16) s t ∧ t.pc.toNat = nnn.toNat ∧ OnlyPc s t

/-- R153: CALL pushes the address of the instruction after it and goes to the 12-bit address; with 16
entries on the stack it raises StackOverflow. Rests on D10, D14, G4. -/
def Obligations.CallPushesReturnAddress : Prop :=
  EncodedBy 0xF000 0x2000 (fun op => .call (fieldNNN op)) ∧
    ∀ (nnn : Addr) (s : State),
      (s.stack.length < 16 →
        ∃ t, Completes (.call nnn) false (nnn.zeroExtend 16) s t ∧ t.stack = (s.pc + 2) :: s.stack ∧
          OnlyStack s t) ∧
      (16 ≤ s.stack.length → Raises (.call nnn) .stackOverflow s)

/-- R154, R155: SE Vx, kk passes over the next word if Vx = kk, SNE Vx, kk if Vx differs from kk. Rests
on G5, G6. -/
def Obligations.ImmediateSkips : Prop :=
  EncodedBy 0xF000 0x3000 (fun op => .seImm (fieldX op) (fieldKK op)) ∧
  EncodedBy 0xF000 0x4000 (fun op => .sneImm (fieldX op) (fieldKK op)) ∧
    ∀ (x : Nibble) (kk : Byte) (s : State),
      (∃ t, Completes (.seImm x kk) false (if s.reg x = kk then s.pc + 4 else s.pc + 2) s t ∧
        OnlyPc s t) ∧
      (∃ t, Completes (.sneImm x kk) false (if s.reg x = kk then s.pc + 2 else s.pc + 4) s t ∧
        OnlyPc s t)

/-- R156, R157: SE Vx, Vy passes over the next word if Vx = Vy, SNE Vx, Vy if they differ, whatever the
ignored bits. Rests on D3, G5, G6. -/
def Obligations.RegisterSkips : Prop :=
  EncodedBy 0xF000 0x5000 (fun op => .seReg (fieldX op) (fieldY op) (fieldN op)) ∧
  EncodedBy 0xF000 0x9000 (fun op => .sneReg (fieldX op) (fieldY op) (fieldN op)) ∧
    ∀ (x y u : Nibble) (s : State),
      (∃ t, Completes (.seReg x y u) false (if s.reg x = s.reg y then s.pc + 4 else s.pc + 2) s t ∧
        OnlyPc s t) ∧
      (∃ t, Completes (.sneReg x y u) false (if s.reg x = s.reg y then s.pc + 2 else s.pc + 4) s t ∧
        OnlyPc s t)

/-- R158: JP V0 sets PC to nnn + V0, with no mask. Rests on D22, G7. -/
def Obligations.JpV0AddsOffset : Prop :=
  EncodedBy 0xF000 0xB000 (fun op => .jpV0 (fieldNNN op)) ∧
    ∀ (nnn : Addr) (s : State),
      ∃ t, Completes (.jpV0 nnn) false t.pc s t ∧ t.pc.toNat = nnn.toNat + (s.reg 0).toNat ∧
        OnlyPc s t

/-! ### Register arithmetic and logic (42_alu.md) -/

/-- R180: `V[x] <- kk`, and no other register or flag changes. -/
def Obligations.LdImmLoadsImmediate : Prop :=
  EncodedBy 0xF000 0x6000 (fun op => .ldImm (fieldX op) (fieldKK op)) ∧
    ∀ (x : Nibble) (kk : Byte) (s : State),
      ∃ t, Completes (.ldImm x kk) false (s.pc + 2) s t ∧
        (∀ k, t.reg k = if k = x then kk else s.reg k) ∧ OnlyRegs s t

/-- R181: `V[x] <- (V[x] + kk) mod 256`; VF is not written unless it is V[x]. -/
def Obligations.AddImmWraps : Prop :=
  EncodedBy 0xF000 0x7000 (fun op => .addImm (fieldX op) (fieldKK op)) ∧
    ∀ (x : Nibble) (kk : Byte) (s : State),
      ∃ t, Completes (.addImm x kk) false (s.pc + 2) s t ∧
        (t.reg x).toNat = ((s.reg x).toNat + kk.toNat) % 256 ∧
        (∀ k, k ≠ x → t.reg k = s.reg k) ∧ OnlyRegs s t

/-- R182: `V[x] <- V[y]`. Rests on G8. -/
def Obligations.LdRegCopies : Prop :=
  EncodedBy 0xF00F 0x8000 (fun op => .ldReg (fieldX op) (fieldY op)) ∧
    ∀ (x y : Nibble) (s : State),
      ∃ t, Completes (.ldReg x y) false (s.pc + 2) s t ∧
        (∀ k, t.reg k = if k = x then s.reg y else s.reg k) ∧ OnlyRegs s t

/-- R183 to R185: OR, AND and XOR combine V[x] and V[y] bit by bit into V[x]; no other register, so VF
unless x = F, changes. Rests on D7, G8. -/
def Obligations.LogicOps : Prop :=
  EncodedBy 0xF00F 0x8001 (fun op => .or (fieldX op) (fieldY op)) ∧
  EncodedBy 0xF00F 0x8002 (fun op => .and (fieldX op) (fieldY op)) ∧
  EncodedBy 0xF00F 0x8003 (fun op => .xor (fieldX op) (fieldY op)) ∧
    ∀ (x y : Nibble) (s : State),
      (∃ t, Completes (.or x y) false (s.pc + 2) s t ∧
        (∀ j, (t.reg x).getLsbD j = ((s.reg x).getLsbD j || (s.reg y).getLsbD j)) ∧
        (∀ k, k ≠ x → t.reg k = s.reg k) ∧ OnlyRegs s t) ∧
      (∃ t, Completes (.and x y) false (s.pc + 2) s t ∧
        (∀ j, (t.reg x).getLsbD j = ((s.reg x).getLsbD j && (s.reg y).getLsbD j)) ∧
        (∀ k, k ≠ x → t.reg k = s.reg k) ∧ OnlyRegs s t) ∧
      (∃ t, Completes (.xor x y) false (s.pc + 2) s t ∧
        (∀ j, (t.reg x).getLsbD j = ((s.reg x).getLsbD j ^^ (s.reg y).getLsbD j)) ∧
        (∀ k, k ≠ x → t.reg k = s.reg k) ∧ OnlyRegs s t)

/-- R187: the sum modulo 256, then VF = 1 if the exact sum exceeds 255, else 0; with x = F the flag is
what remains. Rests on D6 for x = F. -/
def Obligations.AddRegCarry : Prop :=
  EncodedBy 0xF00F 0x8004 (fun op => .addReg (fieldX op) (fieldY op)) ∧
    ∀ (x y : Nibble) (s : State),
      ∃ t, Completes (.addReg x y) false (s.pc + 2) s t ∧
        (x ≠ 15 → (t.reg x).toNat = ((s.reg x).toNat + (s.reg y).toNat) % 256) ∧
        t.reg 15 = (if (s.reg x).toNat + (s.reg y).toNat > 255 then 1 else 0) ∧
        (∀ k, k ≠ x → k ≠ 15 → t.reg k = s.reg k) ∧ OnlyRegs s t

/-- R188: Vx - Vy modulo 256, then VF = 0 if Vy > Vx, else 1. Rests on D6 for x = F. -/
def Obligations.SubNotBorrow : Prop :=
  EncodedBy 0xF00F 0x8005 (fun op => .sub (fieldX op) (fieldY op)) ∧
    ∀ (x y : Nibble) (s : State),
      ∃ t, Completes (.sub x y) false (s.pc + 2) s t ∧
        (x ≠ 15 →
          ((t.reg x).toNat : Int) = (((s.reg x).toNat : Int) - ((s.reg y).toNat : Int)) % 256) ∧
        t.reg 15 = (if (s.reg y).toNat > (s.reg x).toNat then 0 else 1) ∧
        (∀ k, k ≠ x → k ≠ 15 → t.reg k = s.reg k) ∧ OnlyRegs s t

/-- R189: Vx halved, then VF = bit 0 of Vy as it was. Rests on C7 for the bit tested, D6 for x = F. -/
def Obligations.ShrTestsVyBitZero : Prop :=
  EncodedBy 0xF00F 0x8006 (fun op => .shr (fieldX op) (fieldY op)) ∧
    ∀ (x y : Nibble) (s : State),
      ∃ t, Completes (.shr x y) false (s.pc + 2) s t ∧
        (x ≠ 15 → (t.reg x).toNat = (s.reg x).toNat / 2) ∧
        (t.reg 15).toNat = (s.reg y).toNat % 2 ∧
        (∀ k, k ≠ x → k ≠ 15 → t.reg k = s.reg k) ∧ OnlyRegs s t

/-- R190: Vy - Vx modulo 256, then VF = 0 if Vx > Vy, else 1. Rests on G9 for the direction, D6 for
x = F. -/
def Obligations.SubnNotBorrow : Prop :=
  EncodedBy 0xF00F 0x8007 (fun op => .subn (fieldX op) (fieldY op)) ∧
    ∀ (x y : Nibble) (s : State),
      ∃ t, Completes (.subn x y) false (s.pc + 2) s t ∧
        (x ≠ 15 →
          ((t.reg x).toNat : Int) = (((s.reg y).toNat : Int) - ((s.reg x).toNat : Int)) % 256) ∧
        t.reg 15 = (if (s.reg x).toNat > (s.reg y).toNat then 0 else 1) ∧
        (∀ k, k ≠ x → k ≠ 15 → t.reg k = s.reg k) ∧ OnlyRegs s t

/-- R191: Vx doubled modulo 256, then VF = bit 7 of Vy as it was. Rests on C7 for the bit tested, D6 for
x = F. -/
def Obligations.ShlTestsVyBitSeven : Prop :=
  EncodedBy 0xF00F 0x800E (fun op => .shl (fieldX op) (fieldY op)) ∧
    ∀ (x y : Nibble) (s : State),
      ∃ t, Completes (.shl x y) false (s.pc + 2) s t ∧
        (x ≠ 15 → (t.reg x).toNat = (s.reg x).toNat * 2 % 256) ∧
        (t.reg 15).toNat = (s.reg y).toNat / 128 ∧
        (∀ k, k ≠ x → k ≠ 15 → t.reg k = s.reg k) ∧ OnlyRegs s t

/-- R192: `V[x] <- rnd & kk`, for every random byte the step may be given (a free value, D2, log entry
1). Rests on G10. -/
def Obligations.RndMasksRandomByte : Prop :=
  EncodedBy 0xF000 0xC000 (fun op => .rnd (fieldX op) (fieldKK op)) ∧
    ∀ (x : Nibble) (kk : Byte) (s : State),
      ∃ t, Completes (.rnd x kk) false (s.pc + 2) s t ∧
        (∀ j, (t.reg x).getLsbD j = (s.rnd.getLsbD j && kk.getLsbD j)) ∧
        (∀ k, k ≠ x → t.reg k = s.reg k) ∧ OnlyRegs s t

/-! ### Index register and memory transfer (43_index_memory.md) -/

/-- R210: `I <- zext_16(nnn)`. Rests on G11. -/
def Obligations.LdISetsIndex : Prop :=
  EncodedBy 0xF000 0xA000 (fun op => .ldI (fieldNNN op)) ∧
    ∀ (nnn : Addr) (s : State),
      ∃ t, Completes (.ldI nnn) false (s.pc + 2) s t ∧ t.i.toNat = nnn.toNat ∧ SameRegs s t ∧
        OnlyRegsIndex s t

/-- R211: I plus Vx kept to 12 bits, then VF = 1 if the exact sum exceeds 0x0FFF, else 0. Rests on D8 for
the flag, D6 for x = F, G12. -/
def Obligations.AddIOverflow : Prop :=
  EncodedBy 0xF0FF 0xF01E (fun op => .addI (fieldX op)) ∧
    ∀ (x : Nibble) (s : State),
      ∃ t, Completes (.addI x) false (s.pc + 2) s t ∧
        t.i.toNat = (s.i.toNat + (s.reg x).toNat) % 4096 ∧
        t.reg 15 = (if s.i.toNat + (s.reg x).toNat > 0x0FFF then 1 else 0) ∧
        (∀ k, k ≠ 15 → t.reg k = s.reg k) ∧ OnlyRegsIndex s t

/-- R212: `I <- 5 * V[x]`, no mask. -/
def Obligations.LdFPointsAtGlyph : Prop :=
  EncodedBy 0xF0FF 0xF029 (fun op => .ldF (fieldX op)) ∧
    ∀ (x : Nibble) (s : State),
      ∃ t, Completes (.ldF x) false (s.pc + 2) s t ∧ t.i.toNat = 5 * (s.reg x).toNat ∧
        SameRegs s t ∧ OnlyRegsIndex s t

/-- R213: the hundreds, tens and units of Vx go to the bytes at I, I + 1, I + 2 and no other byte
changes; if I + 2 leaves memory, OutOfBounds(write). Rests on D14, D16 for the fault. -/
def Obligations.LdBStoresDecimalDigits : Prop :=
  EncodedBy 0xF0FF 0xF033 (fun op => .ldB (fieldX op)) ∧
    ∀ (x : Nibble) (s : State),
      (s.i.toNat + 2 < 4096 →
        ∃ t, Completes (.ldB x) false (s.pc + 2) s t ∧
          (Memory.read t.mem s.i.toNat).toNat = (s.reg x).toNat / 100 ∧
          (Memory.read t.mem (s.i.toNat + 1)).toNat = (s.reg x).toNat / 10 % 10 ∧
          (Memory.read t.mem (s.i.toNat + 2)).toNat = (s.reg x).toNat % 10 ∧
          (∀ a, a < s.i.toNat ∨ s.i.toNat + 2 < a →
            Memory.read t.mem a = Memory.read s.mem a) ∧
          t.i = s.i ∧ OnlyMemoryIndex s t) ∧
      (4096 ≤ s.i.toNat + 2 → Raises (.ldB x) (.outOfBounds .write (max s.i.toNat 4096)) s)

/-- R216: V[0..x] go to the bytes I..I+x and no other byte changes, then I advances by x + 1 in 12 bits;
if I + x leaves memory, OutOfBounds(write). Rests on D14, D16 for the fault. -/
def Obligations.BlockStoreSpills : Prop :=
  EncodedBy 0xF0FF 0xF055 (fun op => .ldMemVx (fieldX op)) ∧
    ∀ (x : Nibble) (s : State),
      (s.i.toNat + x.toNat < 4096 →
        ∃ t, Completes (.ldMemVx x) false (s.pc + 2) s t ∧
          (∀ k : Nibble, k.toNat ≤ x.toNat →
            Memory.read t.mem (s.i.toNat + k.toNat) = s.reg k) ∧
          (∀ a, a < s.i.toNat ∨ s.i.toNat + x.toNat < a →
            Memory.read t.mem a = Memory.read s.mem a) ∧
          t.i.toNat = (s.i.toNat + x.toNat + 1) % 4096 ∧ OnlyMemoryIndex s t) ∧
      (4096 ≤ s.i.toNat + x.toNat →
        Raises (.ldMemVx x) (.outOfBounds .write (max s.i.toNat 4096)) s)

/-- R217: the bytes I..I+x go to V[0..x] and no other register changes, then I advances by x + 1 in 12
bits; if I + x leaves memory, OutOfBounds(read). Rests on D14, D16 for the fault. -/
def Obligations.BlockLoadFills : Prop :=
  EncodedBy 0xF0FF 0xF065 (fun op => .ldVxMem (fieldX op)) ∧
    ∀ (x : Nibble) (s : State),
      (s.i.toNat + x.toNat < 4096 →
        ∃ t, Completes (.ldVxMem x) false (s.pc + 2) s t ∧
          (∀ k : Nibble, t.reg k =
            if k.toNat ≤ x.toNat then Memory.read s.mem (s.i.toNat + k.toNat) else s.reg k) ∧
          t.i.toNat = (s.i.toNat + x.toNat + 1) % 4096 ∧ OnlyRegsIndex s t) ∧
      (4096 ≤ s.i.toNat + x.toNat →
        Raises (.ldVxMem x) (.outOfBounds .read (max s.i.toNat 4096)) s)

/-! ### Display (44_display.md) -/

/-- R230: every pixel off, nothing else, and the step reports a framebuffer write. Rests on D3 (bits 11:8
ignored), D18 (it ticks), D20, C1. -/
def Obligations.ClsBlanksPicture : Prop :=
  EncodedBy 0xF0FF 0x00E0 (fun op => .cls (fieldX op)) ∧
    ∀ (u : Nibble) (s : State),
      ∃ t, Completes (.cls u) true (s.pc + 2) s t ∧ (∀ px py, t.fb.pixel px py = false) ∧
        SameRegs s t ∧ OnlyPictureRegs s t

/-- R231 to R233, R235: exactly the pixels under a set sprite bit are toggled, wherever the sprite wraps,
and VF = 1 if one of them was on, else 0; a sprite that leaves memory raises OutOfBounds(read). Rests on
D6 (x or y = F), D14, D16, D20, D26 and G15 (the bit order). -/
def Obligations.DrawTogglesCoveredPixels : Prop :=
  EncodedBy 0xF000 0xD000 (fun op => .drw (fieldX op) (fieldY op) (fieldN op)) ∧
    ∀ (x y n : Nibble) (s : State),
      (n.toNat = 0 ∨ s.i.toNat + n.toNat ≤ 4096 →
        ∃ t, Completes (.drw x y n) true (s.pc + 2) s t ∧
          (∀ px py, SpriteCovers s x y n px py → t.fb.pixel px py = !s.fb.pixel px py) ∧
          (∀ px py, ¬SpriteCovers s x y n px py → t.fb.pixel px py = s.fb.pixel px py) ∧
          ((∃ px py, SpriteCovers s x y n px py ∧ s.fb.pixel px py = true) → t.reg 15 = 1) ∧
          (¬(∃ px py, SpriteCovers s x y n px py ∧ s.fb.pixel px py = true) → t.reg 15 = 0) ∧
          (∀ k, k ≠ 15 → t.reg k = s.reg k) ∧ OnlyPictureRegs s t) ∧
      (1 ≤ n.toNat → 4096 < s.i.toNat + n.toNat →
        Raises (.drw x y n) (.outOfBounds .read (max s.i.toNat 4096)) s)

/-- C9, corner case of R232: drawing the same sprite twice at the same origin restores the picture, and
the second draw reports VF = 1 exactly when a set sprite bit lies over a pixel that was off before the
first. (When x or y is F the first draw may move the origin, so "the same place" is a premise.) Rests on
D26 and G15 for which pixels a sprite bit covers (log entry 7). -/
def Obligations.DrawTwiceRestoresPicture : Prop :=
  ∀ (x y n : Nibble) (s t w : State),
    (n.toNat = 0 ∨ s.i.toNat + n.toNat ≤ 4096) →
    exec (.drw x y n) s = .next t → t.reg x = s.reg x → t.reg y = s.reg y →
    exec (.drw x y n) t = .next w →
      SamePicture s w ∧
        ((∃ px py, SpriteCovers s x y n px py ∧ s.fb.pixel px py = false) → w.reg 15 = 1) ∧
        (¬(∃ px py, SpriteCovers s x y n px py ∧ s.fb.pixel px py = false) → w.reg 15 = 0)

/-! ### Keys and timers (45_input_timers.md) -/

/-- R250, R251: SKP passes over the next word if key Vx is down in this step's snapshot, SKNP if it is
not; above 15 both raise BadKeyIndex. Rests on D12, G13. -/
def Obligations.KeySkips : Prop :=
  EncodedBy 0xF0FF 0xE09E (fun op => .skp (fieldX op)) ∧
  EncodedBy 0xF0FF 0xE0A1 (fun op => .sknp (fieldX op)) ∧
    ∀ (x : Nibble) (s : State),
      ((s.reg x).toNat ≤ 15 →
        (∃ t, Completes (.skp x) false
            (if s.keys.getLsbD (s.reg x).toNat then s.pc + 4 else s.pc + 2) s t ∧ OnlyPc s t) ∧
        (∃ t, Completes (.sknp x) false
            (if s.keys.getLsbD (s.reg x).toNat then s.pc + 2 else s.pc + 4) s t ∧ OnlyPc s t)) ∧
      (15 < (s.reg x).toNat →
        Raises (.skp x) (.badKeyIndex (s.reg x)) s ∧ Raises (.sknp x) (.badKeyIndex (s.reg x)) s)

/-- R255: the core waits for register x from the next step on; nothing else changes but PC and the ticking
timers, whatever keys are down. Rests on C2 (PC) and D18 (the tick). -/
def Obligations.KeyWaitEntered : Prop :=
  EncodedBy 0xF0FF 0xF00A (fun op => .ldVxK (fieldX op)) ∧
    ∀ (x : Nibble) (s : State),
      ∃ t, Completes (.ldVxK x) false (s.pc + 2) s t ∧ t.kw = .waiting x ∧
        SameRegs s t ∧ SameMemory s t ∧ SamePicture s t ∧ t.i = s.i ∧ t.stack = s.stack ∧
        TimersTicked s t ∧ SameInputs s t

/-- R252 to R254: Vx takes DT as it was before this step's tick; DT, or ST, takes Vx and the tick of the
same step then applies to it, while the other timer ticks. Rests on G14. -/
def Obligations.TimerReadAndSet : Prop :=
  EncodedBy 0xF0FF 0xF007 (fun op => .ldVxDt (fieldX op)) ∧
  EncodedBy 0xF0FF 0xF015 (fun op => .ldDtVx (fieldX op)) ∧
  EncodedBy 0xF0FF 0xF018 (fun op => .ldStVx (fieldX op)) ∧
    ∀ (x : Nibble) (s : State),
      (∃ t, Completes (.ldVxDt x) false (s.pc + 2) s t ∧
        (∀ k, t.reg k = if k = x then s.dt else s.reg k) ∧ OnlyRegs s t) ∧
      (∃ t, Completes (.ldDtVx x) false (s.pc + 2) s t ∧
        t.dt.toNat = (s.reg x).toNat - 1 ∧ t.st.toNat = s.st.toNat - 1 ∧
        SameRegs s t ∧ SameMemory s t ∧ SamePicture s t ∧ t.i = s.i ∧ t.stack = s.stack ∧
        t.kw = s.kw ∧ SameInputs s t) ∧
      (∃ t, Completes (.ldStVx x) false (s.pc + 2) s t ∧
        t.st.toNat = (s.reg x).toNat - 1 ∧ t.dt.toNat = s.dt.toNat - 1 ∧
        SameRegs s t ∧ SameMemory s t ∧ SamePicture s t ∧ t.i = s.i ∧ t.stack = s.stack ∧
        t.kw = s.kw ∧ SameInputs s t)

/-! ### The step (40_step.md) -/

/-- R130, R139: when the word at PC decodes to an instruction and nothing stands before it, a step is that
instruction's execution on the state with this step's keys and random byte latched; if that raised a fault,
all but the latch is discarded. `step` is that step on the free inputs (log entry 1). Rests on D14, as log
entry 4 codes it, for the discard, and on D9 for an odd PC (log entry 7). -/
def Obligations.StepRunsDecodedInstruction : Prop :=
  (∀ s : State, step s = stepWith (Config.keysAt s.polls) (Config.rndAt s.polls) s) ∧
    ∀ (keys : Keys) (rnd : Byte) (s : State) (i : Instr),
      ReadyToExecute s → decodeWord (wordAtPc s) = .ok i →
        ∃ t, exec i { s with keys := keys, rnd := rnd, polls := s.polls + 1 } = .next t ∧
          (t.fault = none → stepWith keys rnd s = .next t) ∧
          ∀ f, t.fault = some f → stepWith keys rnd s = .next
            { s with fault := some f, result := some (.fault f), polls := s.polls + 1 }

/-- R98: an unknown word changes nothing but PC, which advances by 2, and the ticking timers; in strict mode
it raises UnknownOpcode instead. Rests on D4, D5; `polls` counts the inputs consumed (log entry 1). -/
def Obligations.UnknownWordIsNoOp : Prop :=
  ∀ (keys : Keys) (rnd : Byte) (s : State) (op : Word),
    ReadyToExecute s → wordAtPc s = op → decodeWord op = .error (.unknown op) →
      (s.strict = false →
        ∃ t, stepWith keys rnd s = .next t ∧ t.pc = s.pc + 2 ∧
          t.result = some (.executed op false) ∧
          OnlyPc { s with keys := keys, rnd := rnd, polls := s.polls + 1 } t) ∧
      (s.strict = true →
        stepWith keys rnd s = .next
          { s with
            fault := some (recordAt s .unknownOpcode (some op))
            result := some (.fault (recordAt s .unknownOpcode (some op)))
            polls := s.polls + 1 })

/-- R121: with no program loaded a step only reports NotLoaded; with a fault latched it only reports
Halted and the record. Rests on D15 for the second guard. -/
def Obligations.GuardsChangeNothing : Prop :=
  ∀ (keys : Keys) (rnd : Byte) (s : State),
    (s.loaded = false → stepWith keys rnd s = .next { s with result := some .notLoaded }) ∧
    (s.loaded = true → ∀ f, s.fault = some f →
      stepWith keys rnd s = .next { s with result := some (.halted f) })

/-- R123: a waiting step whose snapshot has keys down writes the least of them to V[r] and ends the wait,
with no PC advance, no tick and nothing else changed but the key latch. Rests on C8 (R256) for a key held
since before the wait, and on C12 for the missing tick (log entry 7). -/
def Obligations.KeyWaitResumesOnLeastKey : Prop :=
  ∀ (keys : Keys) (rnd : Byte) (s : State) (r k0 : Nibble),
    s.loaded = true → s.fault = none → s.kw = .waiting r →
    keys.getLsbD k0.toNat = true → (∀ k < k0.toNat, keys.getLsbD k = false) →
      ∃ t, stepWith keys rnd s = .next t ∧
        (∀ k, t.reg k = if k = r then k0.zeroExtend 8 else s.reg k) ∧
        t.kw = .notWaiting ∧ t.result = some (.resumed k0) ∧ t.keys = keys ∧
        t.pc = s.pc ∧ t.dt = s.dt ∧ t.st = s.st ∧ t.mem = s.mem ∧ t.i = s.i ∧
        t.stack = s.stack ∧ t.fb = s.fb ∧ t.fault = none ∧ t.loaded = true ∧ t.strict = s.strict

/-- R124: a waiting step whose snapshot has no key down changes nothing of the machine but the key latch;
of the model's own fields it reports Idle and counts its inputs as consumed (`polls`, the model's choice,
log entry 1). Rests on C12 for the missing tick and on D13 for the key latch (log entry 7). -/
def Obligations.KeyWaitIdles : Prop :=
  ∀ (keys : Keys) (rnd : Byte) (s : State) (r : Nibble),
    s.loaded = true → s.fault = none → s.kw = .waiting r →
    (∀ k < 16, keys.getLsbD k = false) →
      stepWith keys rnd s = .next
        { s with keys := keys, polls := s.polls + 1, result := some .idle }

/-- R125, R301: a step whose PC is 4095 or more raises OutOfBounds(fetch, max(PC, 4096)), with no
instruction word recorded, and nothing else changes but `polls`, the model's count of the inputs consumed
(log entry 1). Rests on D14, D16. -/
def Obligations.FetchFaultsPastMemory : Prop :=
  ∀ (keys : Keys) (rnd : Byte) (s : State),
    s.loaded = true → s.fault = none → s.kw = .notWaiting → 4095 ≤ s.pc.toNat →
      stepWith keys rnd s = .next
        { s with
          fault := some (recordAt s (.outOfBounds .fetch (max s.pc.toNat 4096)) none)
          result := some
            (.fault (recordAt s (.outOfBounds .fetch (max s.pc.toNat 4096)) none))
          polls := s.polls + 1 }

/-- R302, R303: whatever raised it, a fault in a step leaves the state as it was but for the latch, and
the record's PC is the PC of the step; `polls` counts the inputs consumed (log entry 1). Rests on D14,
D16. -/
def Obligations.FaultingStepKeepsOnlyLatch : Prop :=
  ∀ (keys : Keys) (rnd : Byte) (s t : State) (f : FaultRecord),
    s.fault = none → stepWith keys rnd s = .next t → t.fault = some f →
      t = { s with fault := some f, result := some (.fault f), polls := s.polls + 1 } ∧ f.pc = s.pc

/-- R304: once a fault is latched, every later step reports Halted with the same record and changes
nothing, however many are taken and whatever their inputs. Rests on D15. -/
def Obligations.FaultLatchIsPermanent : Prop :=
  ∀ (s : State) (f : FaultRecord), s.loaded = true → s.fault = some f →
    ∀ inputs : List (Keys × Byte), inputs ≠ [] →
      runWith inputs s = .next { s with result := some (.halted f) }

/-- R120, R309: every step of every state answers a next state, for every input; no step stops. -/
def Obligations.StepAlwaysAnswersNext : Prop :=
  ∀ (keys : Keys) (rnd : Byte) (s : State), ∃ t, stepWith keys rnd s = .next t

/-- R36: the latch is set to Waiting(x) only by an executed Fx0A and cleared only by a waiting step that
finds a key pressed; load leaves it NotWaiting, and so does construction. -/
def Obligations.KeyWaitLatchWriters : Prop :=
  (∀ (keys : Keys) (rnd : Byte) (s t : State), stepWith keys rnd s = .next t → t.kw ≠ s.kw →
      (∃ x, s.kw = .notWaiting ∧ t.kw = .waiting x ∧ decodeWord (wordAtPc s) = .ok (.ldVxK x)) ∨
      (∃ r, s.kw = .waiting r ∧ t.kw = .notWaiting ∧ ∃ k < 16, keys.getLsbD k = true)) ∧
    (∀ (rom : Image) (s : State), (loadProgram rom s).2.kw = .notWaiting) ∧
    State.reset.kw = .notWaiting

/-- R132: both timers go down by 1, saturating at 0, on every step that executes an instruction or an
unknown word, on the value the instruction left, and on no other step. Rests on D18 for the steps of Fx0A
and 00E0, on D4 for unknown words, and on C12 for waiting steps (log entry 7). -/
def Obligations.TimersTickOnExecutedSteps : Prop :=
  ∀ (keys : Keys) (rnd : Byte) (s t : State), stepWith keys rnd s = .next t →
    (∀ op w, t.result = some (.executed op w) →
      t.dt.toNat = (match decodeWord op with
        | .ok (.ldDtVx x) => (s.reg x).toNat
        | _ => s.dt.toNat) - 1 ∧
      t.st.toNat = (match decodeWord op with
        | .ok (.ldStVx x) => (s.reg x).toNat
        | _ => s.st.toNat) - 1) ∧
    ((∀ op w, t.result ≠ some (.executed op w)) → t.dt = s.dt ∧ t.st = s.st)

/-! ### The invariant -/

/-- R28, R31, R44, R303: every step of every state that meets the invariant gives a state that meets it,
whatever the inputs. -/
def Obligations.StepKeepsInvariant : Prop :=
  ∀ s t : State, s.Inv →
    (step s = .next t ∨ ∃ keys rnd, stepWith keys rnd s = .next t) → t.Inv

/-- R41: the state after construction meets the invariant. -/
def Obligations.ResetMeetsInvariant : Prop := State.reset.Inv

/-- R341, R342: the state after a load meets the invariant, whatever the image and whatever the state
before. -/
def Obligations.LoadMeetsInvariant : Prop :=
  ∀ (rom : Image) (s : State), (loadProgram rom s).2.Inv

/-! ### Who writes what -/

/-- R23: an instruction that completes writes VF as a side effect only if it is one of the seven of the
list, and these leave a flag, 0 or 1, in it; every other writes VF only as a named destination. Rests on
D6 for the flag that remains when x = F, and on D7 for VF after OR, AND and XOR (log entry 7). -/
def Obligations.VfWriters : Prop :=
  ∀ (i : Instr) (s t : State), exec i s = .next t →
    (writesFlag i = true → t.result = some (.executed (encode i) (match i with
        | .drw _ _ _ => true
        | _ => false)) → t.reg 15 = 0 ∨ t.reg 15 = 1) ∧
    (writesFlag i = false → namesDest i 15 = false → t.reg 15 = s.reg 15)

/-- R22, R23: the frame of the general registers over all instructions: a register is written only if it is
a named destination, or VF of an instruction that writes the flag. Rests on D7 for VF after OR, AND and
XOR (log entry 7). -/
def Obligations.RegisterWriters : Prop :=
  ∀ (i : Instr) (s t : State) (k : Nibble), exec i s = .next t →
    namesDest i k = false → (writesFlag i = true → k ≠ 15) → t.reg k = s.reg k

/-- R60: the frame of memory over all instructions: a byte changes only under Fx33, at I..I+2, or Fx55, at
I..I+x. -/
def Obligations.MemoryWriters : Prop :=
  ∀ (i : Instr) (s t : State) (a : Nat), exec i s = .next t →
    Memory.read t.mem a ≠ Memory.read s.mem a →
      (∃ x, i = .ldB x ∧ s.i.toNat ≤ a ∧ a ≤ s.i.toNat + 2) ∨
      (∃ x, i = .ldMemVx x ∧ s.i.toNat ≤ a ∧ a ≤ s.i.toNat + x.toNat)

/-- R35, R31, R25: the frame of the picture, the call stack and I over all instructions: only 00E0 and Dxyn
change a pixel, only CALL and RET the stack, only the five writers of R25 the index register. That CALL
pushes PC + 2 is R153 and rests on D10, that RET removes the top entry is R151 (log entry 7). -/
def Obligations.PictureStackIndexWriters : Prop :=
  ∀ (i : Instr) (s t : State), exec i s = .next t →
    (t.fb ≠ s.fb → (∃ u, i = .cls u) ∨ ∃ x y n, i = .drw x y n) ∧
    (t.stack ≠ s.stack →
      (∃ nnn, i = .call nnn ∧ t.stack = (s.pc + 2) :: s.stack) ∨
      ∃ u w, i = .ret u ∧ s.stack = w :: t.stack) ∧
    (t.i ≠ s.i → writesIndex i = true)

/-- R120, R192: the step's random byte reaches only Cxkk: if the word at PC is no Cxkk, two steps that
differ in it alone leave states that differ in the latched byte alone. -/
def Obligations.RandomByteReachesOnlyRnd : Prop :=
  ∀ (keys : Keys) (r r' : Byte) (s t t' : State),
    (∀ x kk, decodeWord (wordAtPc s) ≠ .ok (.rnd x kk)) →
    stepWith keys r s = .next t → stepWith keys r' s = .next t' →
      { t with rnd := 0 } = { t' with rnd := 0 }

/-! ### Outputs and the end of a run -/

/-- R234, R257: in the framebuffer read as one vector, pixel (x, y) is bit y * 64 + x; a sound is on exactly
when ST is not 0. The order of the bits is D21. -/
def Obligations.OutputsReadPictureAndSound : Prop :=
  ∀ s : State,
    (∀ (x : Fin 64) (y : Fin 32), s.outputs.picture.getLsbD (y.val * 64 + x.val) = s.fb.pixel x y) ∧
      (s.soundOn = true ↔ s.outputs.sound.toNat ≠ 0) ∧ s.outputs.result = s.result

/-- R353: once a run has ended, every later step, whatever its inputs, is again one that ends it, and
changes no register, memory byte, pixel, stack entry, PC, I, wait or fault. The definition of an ended run
is D29. -/
def Obligations.EndedRunStaysEnded : Prop :=
  ∀ (keys keys' : Keys) (rnd rnd' : Byte) (s t : State),
    stepWith keys rnd s = .next t → endsRun s t = true →
      ∃ w, stepWith keys' rnd' t = .next w ∧ endsRun t w = true ∧ w.mem = t.mem ∧ w.v = t.v ∧
        w.i = t.i ∧ w.pc = t.pc ∧ w.stack = t.stack ∧ w.fb = t.fb ∧ w.kw = t.kw ∧ w.fault = t.fault

/-! ### Call stack, construction, load -/

/-- R32, R33: a push onto fewer than 16 entries makes its value the new top entry and a seventeenth raises
StackOverflow; a pop removes the top entry and returns it, and on an empty stack raises StackUnderflow. -/
def Obligations.PushAndPop : Prop :=
  ∀ (s : State) (w : Word),
    (s.stack.length < 16 →
      ∃ t, s.push w = .ok t ∧ t = { s with stack := w :: s.stack } ∧ t.pop = .ok (w, s)) ∧
    (16 ≤ s.stack.length → s.push w = .error .stackOverflow) ∧
    (s.stack = [] → s.pop = .error .stackUnderflow)

/-- C10, R151, R153: CALL followed by RET leaves PC at the instruction after the CALL and the call stack as
it was. Rests on D10. -/
def Obligations.CallThenRetReturns : Prop :=
  ∀ (nnn : Addr) (u : Nibble) (s : State), s.stack.length < 16 →
    ∃ t w, exec (.call nnn) s = .next t ∧ exec (.ret u) t = .next w ∧
      w.pc = s.pc + 2 ∧ w.stack = s.stack ∧ SameRegs s w ∧ SameMemory s w

/-- R41, R236: what construction leaves, the font glyphs included. The glyph bytes are D26 and G17, PC is
C4 (log entry 6). -/
def Obligations.ConstructionState : Prop :=
  (∀ k, State.reset.reg k = 0) ∧ State.reset.i = 0 ∧ State.reset.pc = 0x200 ∧ State.reset.dt = 0 ∧
    State.reset.st = 0 ∧ State.reset.stack = [] ∧
    (∀ px py, State.reset.fb.pixel px py = false) ∧ State.reset.kw = .notWaiting ∧
    (∀ k < 16, State.reset.keys.getLsbD k = false) ∧ State.reset.fault = none ∧
    State.reset.loaded = false ∧ (∀ a, 80 ≤ a → Memory.read State.reset.mem a = 0) ∧
    Memory.readBytes State.reset.mem 0x00 5 = [0xF0, 0x90, 0x90, 0x90, 0xF0] ∧
    Memory.readBytes State.reset.mem 0x05 5 = [0x20, 0x60, 0x20, 0x20, 0x70] ∧
    Memory.readBytes State.reset.mem 0x0A 5 = [0xF0, 0x10, 0xF0, 0x80, 0xF0] ∧
    Memory.readBytes State.reset.mem 0x0F 5 = [0xF0, 0x10, 0xF0, 0x10, 0xF0] ∧
    Memory.readBytes State.reset.mem 0x14 5 = [0x90, 0x90, 0xF0, 0x10, 0x10] ∧
    Memory.readBytes State.reset.mem 0x19 5 = [0xF0, 0x80, 0xF0, 0x10, 0xF0] ∧
    Memory.readBytes State.reset.mem 0x1E 5 = [0xF0, 0x80, 0xF0, 0x90, 0xF0] ∧
    Memory.readBytes State.reset.mem 0x23 5 = [0xF0, 0x10, 0x20, 0x40, 0x40] ∧
    Memory.readBytes State.reset.mem 0x28 5 = [0xF0, 0x90, 0xF0, 0x90, 0xF0] ∧
    Memory.readBytes State.reset.mem 0x2D 5 = [0xF0, 0x90, 0xF0, 0x10, 0xF0] ∧
    Memory.readBytes State.reset.mem 0x32 5 = [0xF0, 0x90, 0xF0, 0x90, 0x90] ∧
    Memory.readBytes State.reset.mem 0x37 5 = [0xE0, 0x90, 0xE0, 0x90, 0xE0] ∧
    Memory.readBytes State.reset.mem 0x3C 5 = [0xF0, 0x80, 0x80, 0x80, 0xF0] ∧
    Memory.readBytes State.reset.mem 0x41 5 = [0xE0, 0x90, 0x90, 0x90, 0xE0] ∧
    Memory.readBytes State.reset.mem 0x46 5 = [0xF0, 0x80, 0xF0, 0x80, 0xF0] ∧
    Memory.readBytes State.reset.mem 0x4B 5 = [0xF0, 0x80, 0xF0, 0x80, 0x80]

/-- R42, R342: a load of an image that fits leaves every element at its construction value, the font
re-installed and any fault cleared, but for the image at 512 and the loaded flag. Rests on C4, C13, D15. -/
def Obligations.LoadPlacesImage : Prop :=
  ∀ (rom : Image) (s : State), rom.length ≤ 3584 →
    ∃ t, loadProgram rom s = (.ok, t) ∧ t.loaded = true ∧
      (∀ a, Memory.read t.mem a =
        if 512 ≤ a ∧ a < 512 + rom.length then rom.getD (a - 512) 0
        else Memory.read State.reset.mem a) ∧
      t.v = State.reset.v ∧ t.i = State.reset.i ∧ t.pc = 0x200 ∧ t.dt = 0 ∧ t.st = 0 ∧
      t.stack = [] ∧ t.fb = State.reset.fb ∧ t.kw = .notWaiting ∧ t.keys = 0 ∧ t.fault = none

/-- R341: a load of more than 3584 bytes fails with ProgramTooLarge and leaves the construction state, so
that the next step answers NotLoaded. Rests on D19. That the load keeps `strict` and `polls` and puts the
model's other fields back is the model's own choice, not R341's (log entries 1, 2 and 3). -/
def Obligations.LoadTooLargeLeavesConstruction : Prop :=
  ∀ (rom : Image) (s : State), 3584 < rom.length →
    loadProgram rom s =
        (.programTooLarge, { State.reset with strict := s.strict, polls := s.polls }) ∧
      ∀ keys rnd, ∃ t, stepWith keys rnd (loadProgram rom s).2 = .next t ∧
        t.result = some .notLoaded
end

