-- ==== Sys2Proof/Laws/Decode.lean ====
section
/-! SUPPORT. The fields of a word put together from its fields, a word as its fields put together, and what
a mask of whole fields keeps. -/

namespace Sys2Proof

section
variable (t x y n : Nibble) (kk : Byte) (nnn : Addr)

theorem fieldT_nibbles : fieldT (t ++ x ++ y ++ n) = t := by
  ext i hi
  simp only [fieldT, BitVec.getElem_extractLsb', BitVec.getLsbD_append]
  interval_cases i <;> simp [BitVec.getLsbD_eq_getElem]

theorem fieldX_nibbles : fieldX (t ++ x ++ y ++ n) = x := by
  ext i hi
  simp only [fieldX, BitVec.getElem_extractLsb', BitVec.getLsbD_append]
  interval_cases i <;> simp [BitVec.getLsbD_eq_getElem]

theorem fieldY_nibbles : fieldY (t ++ x ++ y ++ n) = y := by
  ext i hi
  simp only [fieldY, BitVec.getElem_extractLsb', BitVec.getLsbD_append]
  interval_cases i <;> simp [BitVec.getLsbD_eq_getElem]

theorem fieldN_nibbles : fieldN (t ++ x ++ y ++ n) = n := by
  ext i hi
  simp only [fieldN, BitVec.getElem_extractLsb', BitVec.getLsbD_append]
  interval_cases i <;> simp [BitVec.getLsbD_eq_getElem]

theorem fieldT_byte : fieldT (t ++ x ++ kk) = t := by
  ext i hi
  simp only [fieldT, BitVec.getElem_extractLsb', BitVec.getLsbD_append]
  interval_cases i <;> simp [BitVec.getLsbD_eq_getElem]

theorem fieldX_byte : fieldX (t ++ x ++ kk) = x := by
  ext i hi
  simp only [fieldX, BitVec.getElem_extractLsb', BitVec.getLsbD_append]
  interval_cases i <;> simp [BitVec.getLsbD_eq_getElem]

theorem fieldKK_byte : fieldKK (t ++ x ++ kk) = kk := by
  ext i hi
  simp only [fieldKK, BitVec.getElem_extractLsb', BitVec.getLsbD_append]
  interval_cases i <;> simp [BitVec.getLsbD_eq_getElem]

theorem fieldT_addr : fieldT (t ++ nnn) = t := by
  ext i hi
  simp only [fieldT, BitVec.getElem_extractLsb', BitVec.getLsbD_append]
  interval_cases i <;> simp [BitVec.getLsbD_eq_getElem]

theorem fieldNNN_addr : fieldNNN (t ++ nnn) = nnn := by
  ext i hi
  simp only [fieldNNN, BitVec.getElem_extractLsb', BitVec.getLsbD_append]
  interval_cases i <;> simp [BitVec.getLsbD_eq_getElem]

theorem nibbles_and_F00F : (t ++ x ++ y ++ n : Word) &&& 0xF00F#16 = t ++ 0#4 ++ 0#4 ++ n := by
  ext i hi
  simp only [BitVec.getElem_and, BitVec.getElem_append]
  interval_cases i <;> simp

theorem nibbles_and_F000 : (t ++ x ++ y ++ n : Word) &&& 0xF000#16 = t ++ 0#12 := by
  ext i hi
  simp only [BitVec.getElem_and, BitVec.getElem_append]
  interval_cases i <;> simp

theorem byte_and_F0FF : (t ++ x ++ kk : Word) &&& 0xF0FF#16 = t ++ 0#4 ++ kk := by
  ext i hi
  simp only [BitVec.getElem_and, BitVec.getElem_append]
  interval_cases i <;> simp

theorem byte_and_F000 : (t ++ x ++ kk : Word) &&& 0xF000#16 = t ++ 0#12 := by
  ext i hi
  simp only [BitVec.getElem_and, BitVec.getElem_append]
  interval_cases i <;> simp

theorem addr_and_F000 : (t ++ nnn : Word) &&& 0xF000#16 = t ++ 0#12 := by
  ext i hi
  simp only [BitVec.getElem_and, BitVec.getElem_append]
  interval_cases i <;> simp

end

section
variable (op a b : Word)

/-- A word is its fields put together. -/
theorem word_eq_nibbles : (fieldT op ++ fieldX op ++ fieldY op ++ fieldN op : Word) = op := by
  ext i hi
  simp only [fieldT, fieldX, fieldY, fieldN, BitVec.getElem_append,
    BitVec.getElem_extractLsb']
  interval_cases i <;> simp [BitVec.getLsbD_eq_getElem]

/-- A word is its fields put together. -/
theorem word_eq_byte : (fieldT op ++ fieldX op ++ fieldKK op : Word) = op := by
  ext i hi
  simp only [fieldT, fieldX, fieldKK, BitVec.getElem_append,
    BitVec.getElem_extractLsb']
  interval_cases i <;> simp [BitVec.getLsbD_eq_getElem]

/-- A word is its fields put together. -/
theorem word_eq_addr : (fieldT op ++ fieldNNN op : Word) = op := by
  ext i hi
  simp only [fieldT, fieldNNN, BitVec.getElem_append,
    BitVec.getElem_extractLsb']
  interval_cases i <;> simp [BitVec.getLsbD_eq_getElem]

theorem fieldT_and : fieldT (a &&& b) = fieldT a &&& fieldT b := BitVec.extractLsb'_and

theorem fieldX_and : fieldX (a &&& b) = fieldX a &&& fieldX b := BitVec.extractLsb'_and

theorem fieldY_and : fieldY (a &&& b) = fieldY a &&& fieldY b := BitVec.extractLsb'_and

theorem fieldN_and : fieldN (a &&& b) = fieldN a &&& fieldN b := BitVec.extractLsb'_and

theorem fieldKK_and : fieldKK (a &&& b) = fieldKK a &&& fieldKK b := BitVec.extractLsb'_and

theorem fieldNNN_and : fieldNNN (a &&& b) = fieldNNN a &&& fieldNNN b := BitVec.extractLsb'_and

/-- The word of two bytes, as a number. -/
theorem toNat_combine (hi lo : Byte) : (combine hi lo).toNat = hi.toNat * 256 + lo.toNat := by
  rw [combine, BitVec.toNat_append, ← Nat.shiftLeft_add_eq_or_of_lt lo.isLt, Nat.shiftLeft_eq]

/-- The two bytes of a word combine to the word. -/
theorem combine_bytes : combine (hiByte op) (loByte op) = op := by
  have := op.isLt
  apply BitVec.eq_of_toNat_eq
  simp only [toNat_combine, hiByte, loByte, BitVec.extractLsb'_toNat, Nat.shiftRight_eq_div_pow]
  omega

end

end Sys2Proof
end

