-- ==== Sys2Proof/Laws/Memory.lean ====
section
/-! SUPPORT. The laws of memory: a read after a write, every other byte left alone, the canonical form kept. -/

namespace Sys2Proof.Machine

theorem Memory.read_erase (m : Memory) (a k : Nat) :
    Memory.read (Memory.erase m a) k = if k = a then Memory.initByte a else Memory.read m k := by
  induction m with
  | nil => simp only [Memory.erase, Memory.read]; split <;> simp_all
  | cons c rest ih =>
    obtain ⟨j, b⟩ := c
    by_cases hj : j = a
    · simp only [Memory.erase, hj, if_true, ih, Memory.read]
      by_cases hk : k = a
      · simp [hk]
      · simp [hk, Ne.symm hk]
    · simp only [Memory.erase, hj, if_false, Memory.read, ih]
      by_cases hk : j = k
      · simp [hk, hk ▸ hj]
      · simp [hk]

theorem Memory.read_insert (m : Memory) (a k : Nat) (b : Byte) (h : ∀ c ∈ m, c.1 ≠ a) :
    Memory.read (Memory.insert m a b) k = if k = a then b else Memory.read m k := by
  induction m with
  | nil => simp [Memory.insert, Memory.read, eq_comm]
  | cons c rest ih =>
    obtain ⟨j, d⟩ := c
    have hj : j ≠ a := h (j, d) (by simp)
    have ih := ih fun c hc => h c (by simp [hc])
    by_cases hlt : a < j
    · simp [Memory.insert, hlt, Memory.read, eq_comm]
    · simp only [Memory.insert, hlt, if_false, Memory.read, ih]
      by_cases hk : j = k
      · simp [hk, hk ▸ hj]
      · simp [hk]

theorem Memory.ne_of_mem_erase (m : Memory) (a : Nat) : ∀ c ∈ Memory.erase m a, c.1 ≠ a := by
  induction m with
  | nil => simp [Memory.erase]
  | cons c rest ih =>
    obtain ⟨j, d⟩ := c
    by_cases hj : j = a
    · simpa [Memory.erase, hj] using ih
    · simpa [Memory.erase, hj] using ih

/-- One byte written: it reads back, and every other address reads as before. -/
theorem Memory.read_write (m : Memory) (a k : Nat) (b : Byte) :
    Memory.read (Memory.write m a b) k = if k = a then b else Memory.read m k := by
  unfold Memory.write
  split
  · rename_i h
    rw [Memory.read_erase, h]
  · rw [Memory.read_insert _ _ _ _ (Memory.ne_of_mem_erase m a), Memory.read_erase]
    split <;> simp_all

/-- Bytes written at consecutive addresses: byte `k - a` at `k` inside the range, as before outside. -/
theorem Memory.read_writeBytes (bs : List Byte) (m : Memory) (a k : Nat) :
    Memory.read (Memory.writeBytes m a bs) k =
      if a ≤ k ∧ k < a + bs.length then bs.getD (k - a) 0 else Memory.read m k := by
  induction bs generalizing m a with
  | nil =>
    rw [if_neg (by simp)]
    rfl
  | cons b bs ih =>
    have hl : (b :: bs).length = bs.length + 1 := rfl
    rw [Memory.writeBytes, ih, Memory.read_write]
    by_cases h1 : a + 1 ≤ k ∧ k < a + 1 + bs.length
    · rw [if_pos h1, if_pos (by omega), show k - a = (k - (a + 1)) + 1 by omega, List.getD_cons_succ]
    · rw [if_neg h1]
      by_cases h2 : k = a
      · simp [h2]
      · rw [if_neg h2, if_neg (by omega)]

/-- A write leaves every address outside its bytes alone. -/
theorem Memory.read_writeBytes_outside (bs : List Byte) (m : Memory) (a k : Nat)
    (h : k < a ∨ a + bs.length ≤ k) :
    Memory.read (Memory.writeBytes m a bs) k = Memory.read m k := by
  rw [Memory.read_writeBytes]
  simp only [ite_eq_right_iff]
  omega

@[simp] theorem Memory.length_readBytes (m : Memory) (a n : Nat) :
    (Memory.readBytes m a n).length = n := by
  induction n generalizing a with
  | zero => rfl
  | succ n ih => simp [Memory.readBytes, ih]

/-- Byte `k` of a read is the byte at `a + k`. -/
theorem Memory.getD_readBytes (m : Memory) (n a k : Nat) (h : k < n) :
    (Memory.readBytes m a n).getD k 0 = Memory.read m (a + k) := by
  induction n generalizing a k with
  | zero => omega
  | succ n ih =>
    cases k with
    | zero => simp [Memory.readBytes]
    | succ k =>
      rw [Memory.readBytes, List.getD_cons_succ, ih _ _ (by omega)]
      congr 1
      omega

/-! ### The canonical form -/

theorem Memory.wfFrom_mono (m : Memory) (lo lo' : Nat) (h : lo' ≤ lo) (hm : Memory.wfFrom lo m) :
    Memory.wfFrom lo' m := by
  cases m with
  | nil => rfl
  | cons c rest =>
    simp only [Memory.wfFrom, Bool.and_eq_true, decide_eq_true_eq] at hm ⊢
    exact ⟨⟨⟨by omega, hm.1.1.2⟩, hm.1.2⟩, hm.2⟩

theorem Memory.wfFrom_erase (m : Memory) (lo a : Nat) (hm : Memory.wfFrom lo m) :
    Memory.wfFrom lo (Memory.erase m a) := by
  induction m generalizing lo with
  | nil => rfl
  | cons c rest ih =>
    obtain ⟨j, d⟩ := c
    simp only [Memory.wfFrom, Bool.and_eq_true, decide_eq_true_eq] at hm
    by_cases hj : j = a
    · simp only [Memory.erase, hj, if_true]
      exact Memory.wfFrom_mono _ _ _ (by omega) (ih _ hm.2)
    · simp only [Memory.erase, hj, if_false, Memory.wfFrom, Bool.and_eq_true, decide_eq_true_eq]
      exact ⟨hm.1, ih _ hm.2⟩

theorem Memory.wfFrom_insert (m : Memory) (lo a : Nat) (b : Byte) (hlo : lo ≤ a)
    (ha : a < Config.memSize) (hb : b ≠ Memory.initByte a) (h : ∀ c ∈ m, c.1 ≠ a)
    (hm : Memory.wfFrom lo m) : Memory.wfFrom lo (Memory.insert m a b) := by
  induction m generalizing lo with
  | nil => simp [Memory.insert, Memory.wfFrom, hlo, ha, hb]
  | cons c rest ih =>
    obtain ⟨j, d⟩ := c
    have hj : j ≠ a := h (j, d) (by simp)
    simp only [Memory.wfFrom, Bool.and_eq_true, decide_eq_true_eq] at hm
    by_cases hlt : a < j
    · simp only [Memory.insert, hlt, if_true, Memory.wfFrom, Bool.and_eq_true, decide_eq_true_eq]
      exact ⟨⟨⟨hlo, ha⟩, hb⟩, ⟨⟨⟨by omega, hm.1.1.2⟩, hm.1.2⟩, hm.2⟩⟩
    · simp only [Memory.insert, hlt, if_false, Memory.wfFrom, Bool.and_eq_true, decide_eq_true_eq]
      exact ⟨hm.1, ih _ (by omega) (fun c hc => h c (by simp [hc])) hm.2⟩

/-- Writing one byte inside the memory keeps the canonical form. -/
theorem Memory.wf_write (m : Memory) (a : Nat) (b : Byte) (ha : a < Config.memSize)
    (hm : Memory.wf m) : Memory.wf (Memory.write m a b) := by
  unfold Memory.write
  split
  · exact Memory.wfFrom_erase _ _ _ hm
  · exact Memory.wfFrom_insert _ _ _ _ (Nat.zero_le _) ha ‹_› (Memory.ne_of_mem_erase m a)
      (Memory.wfFrom_erase _ _ _ hm)

/-- Writing bytes inside the memory keeps the canonical form. -/
theorem Memory.wf_writeBytes (bs : List Byte) (m : Memory) (a : Nat)
    (ha : a + bs.length ≤ Config.memSize) (hm : Memory.wf m) :
    Memory.wf (Memory.writeBytes m a bs) := by
  induction bs generalizing m a with
  | nil => exact hm
  | cons b bs ih =>
    simp only [List.length_cons] at ha
    exact ih _ _ (by omega) (Memory.wf_write _ _ _ (by omega) hm)

theorem Memory.wf_reset : Memory.wf State.reset.mem := rfl

end Sys2Proof.Machine
end

