-- ==== Sys2Proof/Laws/State.lean ====
section
/-! SUPPORT. One lemma per field per update of the state, each true by unfolding, so that no later proof
unfolds a record update. -/

namespace Sys2Proof.Machine

variable (s : State)

/-! ### setMem -/

@[simp] theorem State.setMem_mem (m : Memory) : (s.setMem m).mem = m := rfl
@[simp] theorem State.setMem_v (m : Memory) : (s.setMem m).v = s.v := rfl
@[simp] theorem State.setMem_i (m : Memory) : (s.setMem m).i = s.i := rfl
@[simp] theorem State.setMem_pc (m : Memory) : (s.setMem m).pc = s.pc := rfl
@[simp] theorem State.setMem_dt (m : Memory) : (s.setMem m).dt = s.dt := rfl
@[simp] theorem State.setMem_st (m : Memory) : (s.setMem m).st = s.st := rfl
@[simp] theorem State.setMem_stack (m : Memory) : (s.setMem m).stack = s.stack := rfl
@[simp] theorem State.setMem_fb (m : Memory) : (s.setMem m).fb = s.fb := rfl
@[simp] theorem State.setMem_kw (m : Memory) : (s.setMem m).kw = s.kw := rfl
@[simp] theorem State.setMem_keys (m : Memory) : (s.setMem m).keys = s.keys := rfl
@[simp] theorem State.setMem_fault (m : Memory) : (s.setMem m).fault = s.fault := rfl
@[simp] theorem State.setMem_loaded (m : Memory) : (s.setMem m).loaded = s.loaded := rfl
@[simp] theorem State.setMem_strict (m : Memory) : (s.setMem m).strict = s.strict := rfl
@[simp] theorem State.setMem_rnd (m : Memory) : (s.setMem m).rnd = s.rnd := rfl
@[simp] theorem State.setMem_polls (m : Memory) : (s.setMem m).polls = s.polls := rfl
@[simp] theorem State.setMem_result (m : Memory) : (s.setMem m).result = s.result := rfl

/-! ### setReg -/

@[simp] theorem State.setReg_mem (x : Nibble) (b : Byte) : (s.setReg x b).mem = s.mem := rfl
@[simp] theorem State.setReg_v (x : Nibble) (b : Byte) : (s.setReg x b).v = s.v.set x.toNat b x.isLt := rfl
@[simp] theorem State.setReg_i (x : Nibble) (b : Byte) : (s.setReg x b).i = s.i := rfl
@[simp] theorem State.setReg_pc (x : Nibble) (b : Byte) : (s.setReg x b).pc = s.pc := rfl
@[simp] theorem State.setReg_dt (x : Nibble) (b : Byte) : (s.setReg x b).dt = s.dt := rfl
@[simp] theorem State.setReg_st (x : Nibble) (b : Byte) : (s.setReg x b).st = s.st := rfl
@[simp] theorem State.setReg_stack (x : Nibble) (b : Byte) : (s.setReg x b).stack = s.stack := rfl
@[simp] theorem State.setReg_fb (x : Nibble) (b : Byte) : (s.setReg x b).fb = s.fb := rfl
@[simp] theorem State.setReg_kw (x : Nibble) (b : Byte) : (s.setReg x b).kw = s.kw := rfl
@[simp] theorem State.setReg_keys (x : Nibble) (b : Byte) : (s.setReg x b).keys = s.keys := rfl
@[simp] theorem State.setReg_fault (x : Nibble) (b : Byte) : (s.setReg x b).fault = s.fault := rfl
@[simp] theorem State.setReg_loaded (x : Nibble) (b : Byte) : (s.setReg x b).loaded = s.loaded := rfl
@[simp] theorem State.setReg_strict (x : Nibble) (b : Byte) : (s.setReg x b).strict = s.strict := rfl
@[simp] theorem State.setReg_rnd (x : Nibble) (b : Byte) : (s.setReg x b).rnd = s.rnd := rfl
@[simp] theorem State.setReg_polls (x : Nibble) (b : Byte) : (s.setReg x b).polls = s.polls := rfl
@[simp] theorem State.setReg_result (x : Nibble) (b : Byte) : (s.setReg x b).result = s.result := rfl

/-! ### setVF -/

@[simp] theorem State.setVF_mem (b : Byte) : (s.setVF b).mem = s.mem := rfl
@[simp] theorem State.setVF_v (b : Byte) : (s.setVF b).v = s.v.set 15 b := rfl
@[simp] theorem State.setVF_i (b : Byte) : (s.setVF b).i = s.i := rfl
@[simp] theorem State.setVF_pc (b : Byte) : (s.setVF b).pc = s.pc := rfl
@[simp] theorem State.setVF_dt (b : Byte) : (s.setVF b).dt = s.dt := rfl
@[simp] theorem State.setVF_st (b : Byte) : (s.setVF b).st = s.st := rfl
@[simp] theorem State.setVF_stack (b : Byte) : (s.setVF b).stack = s.stack := rfl
@[simp] theorem State.setVF_fb (b : Byte) : (s.setVF b).fb = s.fb := rfl
@[simp] theorem State.setVF_kw (b : Byte) : (s.setVF b).kw = s.kw := rfl
@[simp] theorem State.setVF_keys (b : Byte) : (s.setVF b).keys = s.keys := rfl
@[simp] theorem State.setVF_fault (b : Byte) : (s.setVF b).fault = s.fault := rfl
@[simp] theorem State.setVF_loaded (b : Byte) : (s.setVF b).loaded = s.loaded := rfl
@[simp] theorem State.setVF_strict (b : Byte) : (s.setVF b).strict = s.strict := rfl
@[simp] theorem State.setVF_rnd (b : Byte) : (s.setVF b).rnd = s.rnd := rfl
@[simp] theorem State.setVF_polls (b : Byte) : (s.setVF b).polls = s.polls := rfl
@[simp] theorem State.setVF_result (b : Byte) : (s.setVF b).result = s.result := rfl

/-! ### setRegFlag -/

@[simp] theorem State.setRegFlag_mem (x : Nibble) (b c : Byte) : (s.setRegFlag x b c).mem = s.mem := rfl
@[simp] theorem State.setRegFlag_v (x : Nibble) (b c : Byte) : (s.setRegFlag x b c).v = (s.v.set x.toNat b x.isLt).set 15 c := rfl
@[simp] theorem State.setRegFlag_i (x : Nibble) (b c : Byte) : (s.setRegFlag x b c).i = s.i := rfl
@[simp] theorem State.setRegFlag_pc (x : Nibble) (b c : Byte) : (s.setRegFlag x b c).pc = s.pc := rfl
@[simp] theorem State.setRegFlag_dt (x : Nibble) (b c : Byte) : (s.setRegFlag x b c).dt = s.dt := rfl
@[simp] theorem State.setRegFlag_st (x : Nibble) (b c : Byte) : (s.setRegFlag x b c).st = s.st := rfl
@[simp] theorem State.setRegFlag_stack (x : Nibble) (b c : Byte) : (s.setRegFlag x b c).stack = s.stack := rfl
@[simp] theorem State.setRegFlag_fb (x : Nibble) (b c : Byte) : (s.setRegFlag x b c).fb = s.fb := rfl
@[simp] theorem State.setRegFlag_kw (x : Nibble) (b c : Byte) : (s.setRegFlag x b c).kw = s.kw := rfl
@[simp] theorem State.setRegFlag_keys (x : Nibble) (b c : Byte) : (s.setRegFlag x b c).keys = s.keys := rfl
@[simp] theorem State.setRegFlag_fault (x : Nibble) (b c : Byte) : (s.setRegFlag x b c).fault = s.fault := rfl
@[simp] theorem State.setRegFlag_loaded (x : Nibble) (b c : Byte) : (s.setRegFlag x b c).loaded = s.loaded := rfl
@[simp] theorem State.setRegFlag_strict (x : Nibble) (b c : Byte) : (s.setRegFlag x b c).strict = s.strict := rfl
@[simp] theorem State.setRegFlag_rnd (x : Nibble) (b c : Byte) : (s.setRegFlag x b c).rnd = s.rnd := rfl
@[simp] theorem State.setRegFlag_polls (x : Nibble) (b c : Byte) : (s.setRegFlag x b c).polls = s.polls := rfl
@[simp] theorem State.setRegFlag_result (x : Nibble) (b c : Byte) : (s.setRegFlag x b c).result = s.result := rfl

/-! ### fillRegs -/

@[simp] theorem State.fillRegs_mem (bs : List Byte) : (s.fillRegs bs).mem = s.mem := rfl
@[simp] theorem State.fillRegs_v (bs : List Byte) : (s.fillRegs bs).v = Regs.fill s.v 0 bs := rfl
@[simp] theorem State.fillRegs_i (bs : List Byte) : (s.fillRegs bs).i = s.i := rfl
@[simp] theorem State.fillRegs_pc (bs : List Byte) : (s.fillRegs bs).pc = s.pc := rfl
@[simp] theorem State.fillRegs_dt (bs : List Byte) : (s.fillRegs bs).dt = s.dt := rfl
@[simp] theorem State.fillRegs_st (bs : List Byte) : (s.fillRegs bs).st = s.st := rfl
@[simp] theorem State.fillRegs_stack (bs : List Byte) : (s.fillRegs bs).stack = s.stack := rfl
@[simp] theorem State.fillRegs_fb (bs : List Byte) : (s.fillRegs bs).fb = s.fb := rfl
@[simp] theorem State.fillRegs_kw (bs : List Byte) : (s.fillRegs bs).kw = s.kw := rfl
@[simp] theorem State.fillRegs_keys (bs : List Byte) : (s.fillRegs bs).keys = s.keys := rfl
@[simp] theorem State.fillRegs_fault (bs : List Byte) : (s.fillRegs bs).fault = s.fault := rfl
@[simp] theorem State.fillRegs_loaded (bs : List Byte) : (s.fillRegs bs).loaded = s.loaded := rfl
@[simp] theorem State.fillRegs_strict (bs : List Byte) : (s.fillRegs bs).strict = s.strict := rfl
@[simp] theorem State.fillRegs_rnd (bs : List Byte) : (s.fillRegs bs).rnd = s.rnd := rfl
@[simp] theorem State.fillRegs_polls (bs : List Byte) : (s.fillRegs bs).polls = s.polls := rfl
@[simp] theorem State.fillRegs_result (bs : List Byte) : (s.fillRegs bs).result = s.result := rfl

/-! ### setI -/

@[simp] theorem State.setI_mem (w : Word) : (s.setI w).mem = s.mem := rfl
@[simp] theorem State.setI_v (w : Word) : (s.setI w).v = s.v := rfl
@[simp] theorem State.setI_i (w : Word) : (s.setI w).i = w := rfl
@[simp] theorem State.setI_pc (w : Word) : (s.setI w).pc = s.pc := rfl
@[simp] theorem State.setI_dt (w : Word) : (s.setI w).dt = s.dt := rfl
@[simp] theorem State.setI_st (w : Word) : (s.setI w).st = s.st := rfl
@[simp] theorem State.setI_stack (w : Word) : (s.setI w).stack = s.stack := rfl
@[simp] theorem State.setI_fb (w : Word) : (s.setI w).fb = s.fb := rfl
@[simp] theorem State.setI_kw (w : Word) : (s.setI w).kw = s.kw := rfl
@[simp] theorem State.setI_keys (w : Word) : (s.setI w).keys = s.keys := rfl
@[simp] theorem State.setI_fault (w : Word) : (s.setI w).fault = s.fault := rfl
@[simp] theorem State.setI_loaded (w : Word) : (s.setI w).loaded = s.loaded := rfl
@[simp] theorem State.setI_strict (w : Word) : (s.setI w).strict = s.strict := rfl
@[simp] theorem State.setI_rnd (w : Word) : (s.setI w).rnd = s.rnd := rfl
@[simp] theorem State.setI_polls (w : Word) : (s.setI w).polls = s.polls := rfl
@[simp] theorem State.setI_result (w : Word) : (s.setI w).result = s.result := rfl

/-! ### setDT -/

@[simp] theorem State.setDT_mem (b : Byte) : (s.setDT b).mem = s.mem := rfl
@[simp] theorem State.setDT_v (b : Byte) : (s.setDT b).v = s.v := rfl
@[simp] theorem State.setDT_i (b : Byte) : (s.setDT b).i = s.i := rfl
@[simp] theorem State.setDT_pc (b : Byte) : (s.setDT b).pc = s.pc := rfl
@[simp] theorem State.setDT_dt (b : Byte) : (s.setDT b).dt = b := rfl
@[simp] theorem State.setDT_st (b : Byte) : (s.setDT b).st = s.st := rfl
@[simp] theorem State.setDT_stack (b : Byte) : (s.setDT b).stack = s.stack := rfl
@[simp] theorem State.setDT_fb (b : Byte) : (s.setDT b).fb = s.fb := rfl
@[simp] theorem State.setDT_kw (b : Byte) : (s.setDT b).kw = s.kw := rfl
@[simp] theorem State.setDT_keys (b : Byte) : (s.setDT b).keys = s.keys := rfl
@[simp] theorem State.setDT_fault (b : Byte) : (s.setDT b).fault = s.fault := rfl
@[simp] theorem State.setDT_loaded (b : Byte) : (s.setDT b).loaded = s.loaded := rfl
@[simp] theorem State.setDT_strict (b : Byte) : (s.setDT b).strict = s.strict := rfl
@[simp] theorem State.setDT_rnd (b : Byte) : (s.setDT b).rnd = s.rnd := rfl
@[simp] theorem State.setDT_polls (b : Byte) : (s.setDT b).polls = s.polls := rfl
@[simp] theorem State.setDT_result (b : Byte) : (s.setDT b).result = s.result := rfl

/-! ### setST -/

@[simp] theorem State.setST_mem (b : Byte) : (s.setST b).mem = s.mem := rfl
@[simp] theorem State.setST_v (b : Byte) : (s.setST b).v = s.v := rfl
@[simp] theorem State.setST_i (b : Byte) : (s.setST b).i = s.i := rfl
@[simp] theorem State.setST_pc (b : Byte) : (s.setST b).pc = s.pc := rfl
@[simp] theorem State.setST_dt (b : Byte) : (s.setST b).dt = s.dt := rfl
@[simp] theorem State.setST_st (b : Byte) : (s.setST b).st = b := rfl
@[simp] theorem State.setST_stack (b : Byte) : (s.setST b).stack = s.stack := rfl
@[simp] theorem State.setST_fb (b : Byte) : (s.setST b).fb = s.fb := rfl
@[simp] theorem State.setST_kw (b : Byte) : (s.setST b).kw = s.kw := rfl
@[simp] theorem State.setST_keys (b : Byte) : (s.setST b).keys = s.keys := rfl
@[simp] theorem State.setST_fault (b : Byte) : (s.setST b).fault = s.fault := rfl
@[simp] theorem State.setST_loaded (b : Byte) : (s.setST b).loaded = s.loaded := rfl
@[simp] theorem State.setST_strict (b : Byte) : (s.setST b).strict = s.strict := rfl
@[simp] theorem State.setST_rnd (b : Byte) : (s.setST b).rnd = s.rnd := rfl
@[simp] theorem State.setST_polls (b : Byte) : (s.setST b).polls = s.polls := rfl
@[simp] theorem State.setST_result (b : Byte) : (s.setST b).result = s.result := rfl

/-! ### setKw -/

@[simp] theorem State.setKw_mem (k : KeyWait) : (s.setKw k).mem = s.mem := rfl
@[simp] theorem State.setKw_v (k : KeyWait) : (s.setKw k).v = s.v := rfl
@[simp] theorem State.setKw_i (k : KeyWait) : (s.setKw k).i = s.i := rfl
@[simp] theorem State.setKw_pc (k : KeyWait) : (s.setKw k).pc = s.pc := rfl
@[simp] theorem State.setKw_dt (k : KeyWait) : (s.setKw k).dt = s.dt := rfl
@[simp] theorem State.setKw_st (k : KeyWait) : (s.setKw k).st = s.st := rfl
@[simp] theorem State.setKw_stack (k : KeyWait) : (s.setKw k).stack = s.stack := rfl
@[simp] theorem State.setKw_fb (k : KeyWait) : (s.setKw k).fb = s.fb := rfl
@[simp] theorem State.setKw_kw (k : KeyWait) : (s.setKw k).kw = k := rfl
@[simp] theorem State.setKw_keys (k : KeyWait) : (s.setKw k).keys = s.keys := rfl
@[simp] theorem State.setKw_fault (k : KeyWait) : (s.setKw k).fault = s.fault := rfl
@[simp] theorem State.setKw_loaded (k : KeyWait) : (s.setKw k).loaded = s.loaded := rfl
@[simp] theorem State.setKw_strict (k : KeyWait) : (s.setKw k).strict = s.strict := rfl
@[simp] theorem State.setKw_rnd (k : KeyWait) : (s.setKw k).rnd = s.rnd := rfl
@[simp] theorem State.setKw_polls (k : KeyWait) : (s.setKw k).polls = s.polls := rfl
@[simp] theorem State.setKw_result (k : KeyWait) : (s.setKw k).result = s.result := rfl

/-! ### setStack -/

@[simp] theorem State.setStack_mem (l : List Word) : (s.setStack l).mem = s.mem := rfl
@[simp] theorem State.setStack_v (l : List Word) : (s.setStack l).v = s.v := rfl
@[simp] theorem State.setStack_i (l : List Word) : (s.setStack l).i = s.i := rfl
@[simp] theorem State.setStack_pc (l : List Word) : (s.setStack l).pc = s.pc := rfl
@[simp] theorem State.setStack_dt (l : List Word) : (s.setStack l).dt = s.dt := rfl
@[simp] theorem State.setStack_st (l : List Word) : (s.setStack l).st = s.st := rfl
@[simp] theorem State.setStack_stack (l : List Word) : (s.setStack l).stack = l := rfl
@[simp] theorem State.setStack_fb (l : List Word) : (s.setStack l).fb = s.fb := rfl
@[simp] theorem State.setStack_kw (l : List Word) : (s.setStack l).kw = s.kw := rfl
@[simp] theorem State.setStack_keys (l : List Word) : (s.setStack l).keys = s.keys := rfl
@[simp] theorem State.setStack_fault (l : List Word) : (s.setStack l).fault = s.fault := rfl
@[simp] theorem State.setStack_loaded (l : List Word) : (s.setStack l).loaded = s.loaded := rfl
@[simp] theorem State.setStack_strict (l : List Word) : (s.setStack l).strict = s.strict := rfl
@[simp] theorem State.setStack_rnd (l : List Word) : (s.setStack l).rnd = s.rnd := rfl
@[simp] theorem State.setStack_polls (l : List Word) : (s.setStack l).polls = s.polls := rfl
@[simp] theorem State.setStack_result (l : List Word) : (s.setStack l).result = s.result := rfl

/-! ### setFb -/

@[simp] theorem State.setFb_mem (f : Frame) : (s.setFb f).mem = s.mem := rfl
@[simp] theorem State.setFb_v (f : Frame) : (s.setFb f).v = s.v := rfl
@[simp] theorem State.setFb_i (f : Frame) : (s.setFb f).i = s.i := rfl
@[simp] theorem State.setFb_pc (f : Frame) : (s.setFb f).pc = s.pc := rfl
@[simp] theorem State.setFb_dt (f : Frame) : (s.setFb f).dt = s.dt := rfl
@[simp] theorem State.setFb_st (f : Frame) : (s.setFb f).st = s.st := rfl
@[simp] theorem State.setFb_stack (f : Frame) : (s.setFb f).stack = s.stack := rfl
@[simp] theorem State.setFb_fb (f : Frame) : (s.setFb f).fb = f := rfl
@[simp] theorem State.setFb_kw (f : Frame) : (s.setFb f).kw = s.kw := rfl
@[simp] theorem State.setFb_keys (f : Frame) : (s.setFb f).keys = s.keys := rfl
@[simp] theorem State.setFb_fault (f : Frame) : (s.setFb f).fault = s.fault := rfl
@[simp] theorem State.setFb_loaded (f : Frame) : (s.setFb f).loaded = s.loaded := rfl
@[simp] theorem State.setFb_strict (f : Frame) : (s.setFb f).strict = s.strict := rfl
@[simp] theorem State.setFb_rnd (f : Frame) : (s.setFb f).rnd = s.rnd := rfl
@[simp] theorem State.setFb_polls (f : Frame) : (s.setFb f).polls = s.polls := rfl
@[simp] theorem State.setFb_result (f : Frame) : (s.setFb f).result = s.result := rfl

/-! ### latchKeys -/

@[simp] theorem State.latchKeys_mem (k : Keys) : (s.latchKeys k).mem = s.mem := rfl
@[simp] theorem State.latchKeys_v (k : Keys) : (s.latchKeys k).v = s.v := rfl
@[simp] theorem State.latchKeys_i (k : Keys) : (s.latchKeys k).i = s.i := rfl
@[simp] theorem State.latchKeys_pc (k : Keys) : (s.latchKeys k).pc = s.pc := rfl
@[simp] theorem State.latchKeys_dt (k : Keys) : (s.latchKeys k).dt = s.dt := rfl
@[simp] theorem State.latchKeys_st (k : Keys) : (s.latchKeys k).st = s.st := rfl
@[simp] theorem State.latchKeys_stack (k : Keys) : (s.latchKeys k).stack = s.stack := rfl
@[simp] theorem State.latchKeys_fb (k : Keys) : (s.latchKeys k).fb = s.fb := rfl
@[simp] theorem State.latchKeys_kw (k : Keys) : (s.latchKeys k).kw = s.kw := rfl
@[simp] theorem State.latchKeys_keys (k : Keys) : (s.latchKeys k).keys = k := rfl
@[simp] theorem State.latchKeys_fault (k : Keys) : (s.latchKeys k).fault = s.fault := rfl
@[simp] theorem State.latchKeys_loaded (k : Keys) : (s.latchKeys k).loaded = s.loaded := rfl
@[simp] theorem State.latchKeys_strict (k : Keys) : (s.latchKeys k).strict = s.strict := rfl
@[simp] theorem State.latchKeys_rnd (k : Keys) : (s.latchKeys k).rnd = s.rnd := rfl
@[simp] theorem State.latchKeys_polls (k : Keys) : (s.latchKeys k).polls = s.polls + 1 := rfl
@[simp] theorem State.latchKeys_result (k : Keys) : (s.latchKeys k).result = s.result := rfl

/-! ### latchRnd -/

@[simp] theorem State.latchRnd_mem (b : Byte) : (s.latchRnd b).mem = s.mem := rfl
@[simp] theorem State.latchRnd_v (b : Byte) : (s.latchRnd b).v = s.v := rfl
@[simp] theorem State.latchRnd_i (b : Byte) : (s.latchRnd b).i = s.i := rfl
@[simp] theorem State.latchRnd_pc (b : Byte) : (s.latchRnd b).pc = s.pc := rfl
@[simp] theorem State.latchRnd_dt (b : Byte) : (s.latchRnd b).dt = s.dt := rfl
@[simp] theorem State.latchRnd_st (b : Byte) : (s.latchRnd b).st = s.st := rfl
@[simp] theorem State.latchRnd_stack (b : Byte) : (s.latchRnd b).stack = s.stack := rfl
@[simp] theorem State.latchRnd_fb (b : Byte) : (s.latchRnd b).fb = s.fb := rfl
@[simp] theorem State.latchRnd_kw (b : Byte) : (s.latchRnd b).kw = s.kw := rfl
@[simp] theorem State.latchRnd_keys (b : Byte) : (s.latchRnd b).keys = s.keys := rfl
@[simp] theorem State.latchRnd_fault (b : Byte) : (s.latchRnd b).fault = s.fault := rfl
@[simp] theorem State.latchRnd_loaded (b : Byte) : (s.latchRnd b).loaded = s.loaded := rfl
@[simp] theorem State.latchRnd_strict (b : Byte) : (s.latchRnd b).strict = s.strict := rfl
@[simp] theorem State.latchRnd_rnd (b : Byte) : (s.latchRnd b).rnd = b := rfl
@[simp] theorem State.latchRnd_polls (b : Byte) : (s.latchRnd b).polls = s.polls := rfl
@[simp] theorem State.latchRnd_result (b : Byte) : (s.latchRnd b).result = s.result := rfl

/-! ### report -/

@[simp] theorem State.report_mem (r : StepResult) : (s.report r).mem = s.mem := rfl
@[simp] theorem State.report_v (r : StepResult) : (s.report r).v = s.v := rfl
@[simp] theorem State.report_i (r : StepResult) : (s.report r).i = s.i := rfl
@[simp] theorem State.report_pc (r : StepResult) : (s.report r).pc = s.pc := rfl
@[simp] theorem State.report_dt (r : StepResult) : (s.report r).dt = s.dt := rfl
@[simp] theorem State.report_st (r : StepResult) : (s.report r).st = s.st := rfl
@[simp] theorem State.report_stack (r : StepResult) : (s.report r).stack = s.stack := rfl
@[simp] theorem State.report_fb (r : StepResult) : (s.report r).fb = s.fb := rfl
@[simp] theorem State.report_kw (r : StepResult) : (s.report r).kw = s.kw := rfl
@[simp] theorem State.report_keys (r : StepResult) : (s.report r).keys = s.keys := rfl
@[simp] theorem State.report_fault (r : StepResult) : (s.report r).fault = s.fault := rfl
@[simp] theorem State.report_loaded (r : StepResult) : (s.report r).loaded = s.loaded := rfl
@[simp] theorem State.report_strict (r : StepResult) : (s.report r).strict = s.strict := rfl
@[simp] theorem State.report_rnd (r : StepResult) : (s.report r).rnd = s.rnd := rfl
@[simp] theorem State.report_polls (r : StepResult) : (s.report r).polls = s.polls := rfl
@[simp] theorem State.report_result (r : StepResult) : (s.report r).result = some r := rfl

/-! ### retire -/

@[simp] theorem State.retire_mem (op : Word) (w : Bool) (p : Word) : (s.retire op w p).mem = s.mem := rfl
@[simp] theorem State.retire_v (op : Word) (w : Bool) (p : Word) : (s.retire op w p).v = s.v := rfl
@[simp] theorem State.retire_i (op : Word) (w : Bool) (p : Word) : (s.retire op w p).i = s.i := rfl
@[simp] theorem State.retire_pc (op : Word) (w : Bool) (p : Word) : (s.retire op w p).pc = p := rfl
@[simp] theorem State.retire_dt (op : Word) (w : Bool) (p : Word) : (s.retire op w p).dt = tick s.dt := rfl
@[simp] theorem State.retire_st (op : Word) (w : Bool) (p : Word) : (s.retire op w p).st = tick s.st := rfl
@[simp] theorem State.retire_stack (op : Word) (w : Bool) (p : Word) : (s.retire op w p).stack = s.stack := rfl
@[simp] theorem State.retire_fb (op : Word) (w : Bool) (p : Word) : (s.retire op w p).fb = s.fb := rfl
@[simp] theorem State.retire_kw (op : Word) (w : Bool) (p : Word) : (s.retire op w p).kw = s.kw := rfl
@[simp] theorem State.retire_keys (op : Word) (w : Bool) (p : Word) : (s.retire op w p).keys = s.keys := rfl
@[simp] theorem State.retire_fault (op : Word) (w : Bool) (p : Word) : (s.retire op w p).fault = s.fault := rfl
@[simp] theorem State.retire_loaded (op : Word) (w : Bool) (p : Word) : (s.retire op w p).loaded = s.loaded := rfl
@[simp] theorem State.retire_strict (op : Word) (w : Bool) (p : Word) : (s.retire op w p).strict = s.strict := rfl
@[simp] theorem State.retire_rnd (op : Word) (w : Bool) (p : Word) : (s.retire op w p).rnd = s.rnd := rfl
@[simp] theorem State.retire_polls (op : Word) (w : Bool) (p : Word) : (s.retire op w p).polls = s.polls := rfl
@[simp] theorem State.retire_result (op : Word) (w : Bool) (p : Word) : (s.retire op w p).result = some (.executed op w) := rfl

/-! ### fail -/

@[simp] theorem State.fail_mem (f : FaultRecord) : (s.fail f).mem = s.mem := rfl
@[simp] theorem State.fail_v (f : FaultRecord) : (s.fail f).v = s.v := rfl
@[simp] theorem State.fail_i (f : FaultRecord) : (s.fail f).i = s.i := rfl
@[simp] theorem State.fail_pc (f : FaultRecord) : (s.fail f).pc = s.pc := rfl
@[simp] theorem State.fail_dt (f : FaultRecord) : (s.fail f).dt = s.dt := rfl
@[simp] theorem State.fail_st (f : FaultRecord) : (s.fail f).st = s.st := rfl
@[simp] theorem State.fail_stack (f : FaultRecord) : (s.fail f).stack = s.stack := rfl
@[simp] theorem State.fail_fb (f : FaultRecord) : (s.fail f).fb = s.fb := rfl
@[simp] theorem State.fail_kw (f : FaultRecord) : (s.fail f).kw = s.kw := rfl
@[simp] theorem State.fail_keys (f : FaultRecord) : (s.fail f).keys = s.keys := rfl
@[simp] theorem State.fail_fault (f : FaultRecord) : (s.fail f).fault = some f := rfl
@[simp] theorem State.fail_loaded (f : FaultRecord) : (s.fail f).loaded = s.loaded := rfl
@[simp] theorem State.fail_strict (f : FaultRecord) : (s.fail f).strict = s.strict := rfl
@[simp] theorem State.fail_rnd (f : FaultRecord) : (s.fail f).rnd = s.rnd := rfl
@[simp] theorem State.fail_polls (f : FaultRecord) : (s.fail f).polls = s.polls := rfl
@[simp] theorem State.fail_result (f : FaultRecord) : (s.fail f).result = some (.fault f) := rfl

/-! ### faulted -/

@[simp] theorem State.faulted_mem (f : FaultRecord) : (s.faulted f).mem = s.mem := rfl
@[simp] theorem State.faulted_v (f : FaultRecord) : (s.faulted f).v = s.v := rfl
@[simp] theorem State.faulted_i (f : FaultRecord) : (s.faulted f).i = s.i := rfl
@[simp] theorem State.faulted_pc (f : FaultRecord) : (s.faulted f).pc = s.pc := rfl
@[simp] theorem State.faulted_dt (f : FaultRecord) : (s.faulted f).dt = s.dt := rfl
@[simp] theorem State.faulted_st (f : FaultRecord) : (s.faulted f).st = s.st := rfl
@[simp] theorem State.faulted_stack (f : FaultRecord) : (s.faulted f).stack = s.stack := rfl
@[simp] theorem State.faulted_fb (f : FaultRecord) : (s.faulted f).fb = s.fb := rfl
@[simp] theorem State.faulted_kw (f : FaultRecord) : (s.faulted f).kw = s.kw := rfl
@[simp] theorem State.faulted_keys (f : FaultRecord) : (s.faulted f).keys = s.keys := rfl
@[simp] theorem State.faulted_fault (f : FaultRecord) : (s.faulted f).fault = some f := rfl
@[simp] theorem State.faulted_loaded (f : FaultRecord) : (s.faulted f).loaded = s.loaded := rfl
@[simp] theorem State.faulted_strict (f : FaultRecord) : (s.faulted f).strict = s.strict := rfl
@[simp] theorem State.faulted_rnd (f : FaultRecord) : (s.faulted f).rnd = s.rnd := rfl
@[simp] theorem State.faulted_polls (f : FaultRecord) : (s.faulted f).polls = s.polls + 1 := rfl
@[simp] theorem State.faulted_result (f : FaultRecord) : (s.faulted f).result = some (.fault f) := rfl

/-! ### Register reads past updates of other fields -/

@[simp] theorem State.setMem_reg (m : Memory) (y : Nibble) : (s.setMem m).reg y = s.reg y := rfl
@[simp] theorem State.setI_reg (w : Word) (y : Nibble) : (s.setI w).reg y = s.reg y := rfl
@[simp] theorem State.setDT_reg (b : Byte) (y : Nibble) : (s.setDT b).reg y = s.reg y := rfl
@[simp] theorem State.setST_reg (b : Byte) (y : Nibble) : (s.setST b).reg y = s.reg y := rfl
@[simp] theorem State.setKw_reg (k : KeyWait) (y : Nibble) : (s.setKw k).reg y = s.reg y := rfl
@[simp] theorem State.setStack_reg (l : List Word) (y : Nibble) : (s.setStack l).reg y = s.reg y := rfl
@[simp] theorem State.setFb_reg (f : Frame) (y : Nibble) : (s.setFb f).reg y = s.reg y := rfl
@[simp] theorem State.latchKeys_reg (k : Keys) (y : Nibble) : (s.latchKeys k).reg y = s.reg y := rfl
@[simp] theorem State.latchRnd_reg (b : Byte) (y : Nibble) : (s.latchRnd b).reg y = s.reg y := rfl
@[simp] theorem State.report_reg (r : StepResult) (y : Nibble) : (s.report r).reg y = s.reg y := rfl
@[simp] theorem State.retire_reg (op : Word) (w : Bool) (p : Word) (y : Nibble) : (s.retire op w p).reg y = s.reg y := rfl
@[simp] theorem State.fail_reg (f : FaultRecord) (y : Nibble) : (s.fail f).reg y = s.reg y := rfl
@[simp] theorem State.faulted_reg (f : FaultRecord) (y : Nibble) : (s.faulted f).reg y = s.reg y := rfl

end Sys2Proof.Machine
end

