-- ==== Sys2Proof/Laws/Ops.lean ====
section
/-! SUPPORT. For each shared operation, once, everything it can do. -/

namespace Sys2Proof.Machine

/-! ### The bounds check and the accesses it guards (R63) -/

/-- The check passes on an access inside memory or of no byte, and otherwise names the first address
past memory that the access reaches. -/
theorem check_cases (kind : AccessKind) (a n : Nat) :
    (check kind a n = .ok () ∧ (n = 0 ∨ a + n ≤ 4096)) ∨
      (check kind a n = .error (.outOfBounds kind (max a 4096)) ∧ 1 ≤ n ∧ 4096 < a + n) := by
  unfold check Config.memSize
  split
  · exact .inr ⟨rfl, by omega⟩
  · exact .inl ⟨rfl, by omega⟩

theorem memRead_of_le (s : State) (kind : AccessKind) (a n : Nat) (h : n = 0 ∨ a + n ≤ 4096) :
    s.memRead kind a n = .ok (Memory.readBytes s.mem a n) := by
  obtain ⟨hc, -⟩ | ⟨-, h1, h2⟩ := check_cases kind a n
  · rw [State.memRead, hc]
  · omega

theorem memRead_of_gt (s : State) (kind : AccessKind) (a n : Nat) (h1 : 1 ≤ n) (h2 : 4096 < a + n) :
    s.memRead kind a n = .error (.outOfBounds kind (max a 4096)) := by
  obtain ⟨-, h⟩ | ⟨hc, -⟩ := check_cases kind a n
  · omega
  · rw [State.memRead, hc]

theorem memRead_cases (s : State) (kind : AccessKind) (a n : Nat) :
    (s.memRead kind a n = .ok (Memory.readBytes s.mem a n) ∧ (n = 0 ∨ a + n ≤ 4096)) ∨
      (s.memRead kind a n = .error (.outOfBounds kind (max a 4096)) ∧ 1 ≤ n ∧ 4096 < a + n) := by
  by_cases h : n = 0 ∨ a + n ≤ 4096
  · exact .inl ⟨memRead_of_le s kind a n h, h⟩
  · exact .inr ⟨memRead_of_gt s kind a n (by omega) (by omega), by omega⟩

theorem memWrite_of_le (s : State) (a : Nat) (bs : List Byte) (h : bs.length = 0 ∨ a + bs.length ≤ 4096) :
    s.memWrite a bs = .ok (s.setMem (Memory.writeBytes s.mem a bs)) := by
  obtain ⟨hc, -⟩ | ⟨-, h1, h2⟩ := check_cases .write a bs.length
  · rw [State.memWrite, hc]
  · omega

theorem memWrite_of_gt (s : State) (a : Nat) (bs : List Byte) (h1 : 1 ≤ bs.length)
    (h2 : 4096 < a + bs.length) :
    s.memWrite a bs = .error (.outOfBounds .write (max a 4096)) := by
  obtain ⟨-, h⟩ | ⟨hc, -⟩ := check_cases .write a bs.length
  · omega
  · rw [State.memWrite, hc]

theorem memWrite_cases (s : State) (a : Nat) (bs : List Byte) :
    (s.memWrite a bs = .ok (s.setMem (Memory.writeBytes s.mem a bs)) ∧
        (bs.length = 0 ∨ a + bs.length ≤ 4096)) ∨
      (s.memWrite a bs = .error (.outOfBounds .write (max a 4096)) ∧
        1 ≤ bs.length ∧ 4096 < a + bs.length) := by
  by_cases h : bs.length = 0 ∨ a + bs.length ≤ 4096
  · exact .inl ⟨memWrite_of_le s a bs h, h⟩
  · exact .inr ⟨memWrite_of_gt s a bs (by omega) (by omega), by omega⟩

/-- The fetch reads the two bytes at PC, high byte first, or faults (R125, R126). -/
theorem fetch_cases (s : State) :
    (s.fetch = .ok (combine (Memory.read s.mem s.pc.toNat) (Memory.read s.mem (s.pc.toNat + 1))) ∧
        s.pc.toNat + 1 < 4096) ∨
      (s.fetch = .error (.outOfBounds .fetch (max s.pc.toNat 4096)) ∧ 4096 ≤ s.pc.toNat + 1) := by
  obtain ⟨hc, h⟩ | ⟨hc, h⟩ := check_cases .fetch s.pc.toNat 2
  · exact .inl ⟨by rw [State.fetch, hc], by omega⟩
  · exact .inr ⟨by rw [State.fetch, hc], by omega⟩

/-! ### Registers (R22) -/

/-- A register written reads back; every other register reads as before. -/
theorem reg_setReg (s : State) (x y : Nibble) (b : Byte) :
    (s.setReg x b).reg y = if y = x then b else s.reg y := by
  simp only [State.reg, State.setReg_v, Vector.getElem_set]
  by_cases h : y = x
  · simp [h]
  · have : x.toNat ≠ y.toNat := fun e => h (BitVec.eq_of_toNat_eq e.symm)
    simp [h, this]

theorem reg_setVF (s : State) (y : Nibble) (b : Byte) :
    (s.setVF b).reg y = if y = 15 then b else s.reg y := reg_setReg s 15 y b

/-- A result and then a flag: VF holds the flag even when it was the destination (R186). -/
theorem reg_setRegFlag (s : State) (x y : Nibble) (b c : Byte) :
    (s.setRegFlag x b c).reg y = if y = 15 then c else if y = x then b else s.reg y := by
  rw [State.setRegFlag, reg_setVF, reg_setReg]

@[simp] theorem length_regsUpTo (s : State) (x : Nibble) : (s.regsUpTo x).length = x.toNat + 1 := by
  have := x.isLt
  simp [State.regsUpTo]
  omega

/-- Byte `k` of the block a store writes is register `k`. -/
theorem getD_regsUpTo (s : State) (x k : Nibble) (h : k.toNat ≤ x.toNat) :
    (s.regsUpTo x).getD k.toNat 0 = s.reg k := by
  have := k.isLt
  rw [State.regsUpTo, List.getD_eq_getElem?_getD, List.getElem?_take_of_lt (by omega)]
  simp [State.reg, Vector.getElem?_eq_getElem (show k.toNat < 16 from this)]

theorem getElem_fill (bs : List Byte) (v : Regs) (k j : Nat) (hj : j < 16) :
    (Regs.fill v k bs)[j] = if k ≤ j ∧ j < k + bs.length then bs.getD (j - k) 0 else v[j] := by
  induction bs generalizing v k with
  | nil =>
    rw [if_neg (by simp)]
    rfl
  | cons b bs ih =>
    have hl : (b :: bs).length = bs.length + 1 := rfl
    rw [Regs.fill, ih, Vector.getElem_setIfInBounds]
    by_cases h1 : k + 1 ≤ j ∧ j < k + 1 + bs.length
    · rw [if_pos h1, if_pos (by omega), show j - k = (j - (k + 1)) + 1 by omega, List.getD_cons_succ]
    · rw [if_neg h1]
      by_cases h2 : k = j
      · simp [h2]
      · rw [if_neg h2, if_neg (by omega)]

/-- The registers a load fills hold its bytes; the others read as before. -/
theorem reg_fillRegs (s : State) (bs : List Byte) (y : Nibble) :
    (s.fillRegs bs).reg y = if y.toNat < bs.length then bs.getD y.toNat 0 else s.reg y := by
  simp [State.reg, getElem_fill]

/-! ### Call stack (R32, R33) -/

theorem push_cases (s : State) (w : Word) :
    (s.push w = .ok (s.setStack (w :: s.stack)) ∧ s.stack.length < 16) ∨
      (s.push w = .error .stackOverflow ∧ 16 ≤ s.stack.length) := by
  unfold State.push Config.stackDepth
  split
  · exact .inr ⟨rfl, ‹_›⟩
  · exact .inl ⟨rfl, by omega⟩

theorem pop_cases (s : State) :
    (s.stack = [] ∧ s.pop = .error .stackUnderflow) ∨
      ∃ w rest, s.stack = w :: rest ∧ s.pop = .ok (w, s.setStack rest) := by
  unfold State.pop
  split
  · exact .inl ⟨‹_›, rfl⟩
  · rename_i w rest h
    exact .inr ⟨w, rest, h, rfl⟩

/-! ### Timers (R132) -/

/-- A tick is one down, saturating at zero. -/
theorem toNat_tick (t : Byte) : (tick t).toNat = t.toNat - 1 := by
  unfold tick
  split
  · rename_i h
    simp [h]
  · rename_i h
    have : t.toNat ≠ 0 := fun e => h (BitVec.eq_of_toNat_eq (by simpa using e))
    have := t.isLt
    rw [BitVec.toNat_sub]
    simp
    omega

/-! ### Framebuffer (R34) -/

theorem pixel_toggle (fb : Frame) (x x' : Fin 64) (y y' : Fin 32) :
    (fb.toggle x y).pixel x' y' = if x' = x ∧ y' = y then !fb.pixel x y else fb.pixel x' y' := by
  simp only [Frame.pixel, Frame.toggle, Fin.getElem_fin, Vector.getElem_set]
  by_cases hy : y' = y
  · by_cases hx : x' = x
    · simp [hx, hy]
    · simp [hx, hy, Fin.val_inj, Ne.symm hx]
  · simp [hy, Fin.val_inj, Ne.symm hy]

@[simp] theorem pixel_blank (x : Fin 64) (y : Fin 32) : Frame.blank.pixel x y = false := by
  simp [Frame.pixel, Frame.blank]

/-- Two pictures with the same pixels are equal. -/
theorem frame_ext (f g : Frame) (h : ∀ x y, f.pixel x y = g.pixel x y) : f = g := by
  apply Vector.ext
  intro j hj
  apply Vector.ext
  intro k hk
  exact h ⟨k, hk⟩ ⟨j, hj⟩

/-- Bit `k` of the vector of `f 0, f 1, ...` is `f k`. -/
theorem getLsbD_bitsOf (f : Nat → Bool) (n k : Nat) (h : k < n) : (bitsOf f n).getLsbD k = f k := by
  induction n with
  | zero => omega
  | succ n ih =>
    rw [bitsOf, BitVec.getLsbD_cons]
    split
    · simp_all
    · exact ih (by omega)

/-! ### Keys (R123) -/

theorem firstKeyFrom_some (keys : Keys) (n k0 k : Nat) (h : firstKeyFrom keys k0 n = some k) :
    k0 ≤ k ∧ k < k0 + n ∧ keyDown keys k = true ∧ ∀ j, k0 ≤ j → j < k → keyDown keys j = false := by
  induction n generalizing k0 with
  | zero => simp [firstKeyFrom] at h
  | succ n ih =>
    rw [firstKeyFrom] at h
    split at h
    · obtain rfl := Option.some.inj h
      exact ⟨le_rfl, by omega, ‹_›, fun j h1 h2 => by omega⟩
    · obtain ⟨h1, h2, h3, h4⟩ := ih _ h
      refine ⟨by omega, by omega, h3, fun j h5 h6 => ?_⟩
      by_cases e : j = k0
      · exact e ▸ Bool.eq_false_iff.mpr ‹¬keyDown keys k0 = true›
      · exact h4 j (by omega) h6

theorem firstKeyFrom_none (keys : Keys) (n k0 : Nat) (h : firstKeyFrom keys k0 n = none) :
    ∀ j, k0 ≤ j → j < k0 + n → keyDown keys j = false := by
  induction n generalizing k0 with
  | zero => intro j h1 h2; omega
  | succ n ih =>
    rw [firstKeyFrom] at h
    split at h
    · simp at h
    · intro j h1 h2
      by_cases e : j = k0
      · exact e ▸ Bool.eq_false_iff.mpr ‹¬keyDown keys k0 = true›
      · exact ih _ h j (by omega) (by omega)

/-- The scan finds the least key down, or none is down. -/
theorem firstKey_cases (keys : Keys) :
    (firstKey keys = none ∧ ∀ j < 16, keyDown keys j = false) ∨
      ∃ k : Nibble, firstKey keys = some k ∧ keyDown keys k.toNat = true ∧
        ∀ j < k.toNat, keyDown keys j = false := by
  unfold firstKey
  cases h : firstKeyFrom keys 0 16 with
  | none => exact .inl ⟨rfl, fun j hj => firstKeyFrom_none _ _ _ h j (by omega) (by omega)⟩
  | some k =>
    obtain ⟨-, h2, h3, h4⟩ := firstKeyFrom_some _ _ _ _ h
    have hk : (BitVec.ofNat 4 k).toNat = k := by simp; omega
    exact .inr ⟨_, rfl, by rwa [hk], fun j hj => h4 j (by omega) (by omega)⟩

theorem keyIndex_cases (s : State) (x : Nibble) :
    (s.keyIndex x = .ok (s.reg x).toNat ∧ (s.reg x).toNat ≤ 15) ∨
      (s.keyIndex x = .error (.badKeyIndex (s.reg x)) ∧ 15 < (s.reg x).toNat) := by
  unfold State.keyIndex
  split
  · exact .inr ⟨rfl, by omega⟩
  · exact .inl ⟨rfl, by omega⟩

/-! ### How an instruction ends -/

@[simp] theorem finish_eq (s : State) (op : Word) (w : Bool) (p : Word) :
    finish s op w p = .next (s.retire op w p) := rfl

@[simp] theorem raise_eq (s : State) (c : FaultCause) (op : Word) :
    raise s c op = .next (s.fail { cause := c, pc := s.pc, op := some op }) := rfl

end Sys2Proof.Machine
end

