-- ==== Sys2Proof/Laws/PerInstr.lean ====
section
/-! SUPPORT. Per instruction: its word has the fixed bits of its row of spec/opcode_table.json. -/

namespace Sys2Proof.Laws.FixedBits

/-- The `mask` and `match` of an instruction's row of spec/opcode_table.json. -/
def row : Instr → Word × Word
  | .cls _ => (0xF0FF, 0x00E0)
  | .ret _ => (0xF0FF, 0x00EE)
  | .jp _ => (0xF000, 0x1000)
  | .call _ => (0xF000, 0x2000)
  | .seImm _ _ => (0xF000, 0x3000)
  | .sneImm _ _ => (0xF000, 0x4000)
  | .seReg _ _ _ => (0xF000, 0x5000)
  | .ldImm _ _ => (0xF000, 0x6000)
  | .addImm _ _ => (0xF000, 0x7000)
  | .ldReg _ _ => (0xF00F, 0x8000)
  | .or _ _ => (0xF00F, 0x8001)
  | .and _ _ => (0xF00F, 0x8002)
  | .xor _ _ => (0xF00F, 0x8003)
  | .addReg _ _ => (0xF00F, 0x8004)
  | .sub _ _ => (0xF00F, 0x8005)
  | .shr _ _ => (0xF00F, 0x8006)
  | .subn _ _ => (0xF00F, 0x8007)
  | .shl _ _ => (0xF00F, 0x800E)
  | .sneReg _ _ _ => (0xF000, 0x9000)
  | .ldI _ => (0xF000, 0xA000)
  | .jpV0 _ => (0xF000, 0xB000)
  | .rnd _ _ => (0xF000, 0xC000)
  | .drw _ _ _ => (0xF000, 0xD000)
  | .skp _ => (0xF0FF, 0xE09E)
  | .sknp _ => (0xF0FF, 0xE0A1)
  | .ldVxDt _ => (0xF0FF, 0xF007)
  | .ldVxK _ => (0xF0FF, 0xF00A)
  | .ldDtVx _ => (0xF0FF, 0xF015)
  | .ldStVx _ => (0xF0FF, 0xF018)
  | .addI _ => (0xF0FF, 0xF01E)
  | .ldF _ => (0xF0FF, 0xF029)
  | .ldB _ => (0xF0FF, 0xF033)
  | .ldMemVx _ => (0xF0FF, 0xF055)
  | .ldVxMem _ => (0xF0FF, 0xF065)

/-- The word of `i` has its row's fixed bits. -/
def Statement (i : Instr) : Prop := encode i &&& (row i).1 = (row i).2

theorem cls (u : Nibble) : Statement (.cls u) := byte_and_F0FF 0x0#4 u 0xE0#8

theorem ret (u : Nibble) : Statement (.ret u) := byte_and_F0FF 0x0#4 u 0xEE#8

theorem jp (nnn : Addr) : Statement (.jp nnn) := addr_and_F000 0x1#4 nnn

theorem call (nnn : Addr) : Statement (.call nnn) := addr_and_F000 0x2#4 nnn

theorem seImm (x : Nibble) (kk : Byte) : Statement (.seImm x kk) := byte_and_F000 0x3#4 x kk

theorem sneImm (x : Nibble) (kk : Byte) : Statement (.sneImm x kk) := byte_and_F000 0x4#4 x kk

theorem seReg (x : Nibble) (y : Nibble) (u : Nibble) : Statement (.seReg x y u) := nibbles_and_F000 0x5#4 x y u

theorem ldImm (x : Nibble) (kk : Byte) : Statement (.ldImm x kk) := byte_and_F000 0x6#4 x kk

theorem addImm (x : Nibble) (kk : Byte) : Statement (.addImm x kk) := byte_and_F000 0x7#4 x kk

theorem ldReg (x : Nibble) (y : Nibble) : Statement (.ldReg x y) := nibbles_and_F00F 0x8#4 x y 0x0#4

theorem or (x : Nibble) (y : Nibble) : Statement (.or x y) := nibbles_and_F00F 0x8#4 x y 0x1#4

theorem and (x : Nibble) (y : Nibble) : Statement (.and x y) := nibbles_and_F00F 0x8#4 x y 0x2#4

theorem xor (x : Nibble) (y : Nibble) : Statement (.xor x y) := nibbles_and_F00F 0x8#4 x y 0x3#4

theorem addReg (x : Nibble) (y : Nibble) : Statement (.addReg x y) := nibbles_and_F00F 0x8#4 x y 0x4#4

theorem sub (x : Nibble) (y : Nibble) : Statement (.sub x y) := nibbles_and_F00F 0x8#4 x y 0x5#4

theorem shr (x : Nibble) (y : Nibble) : Statement (.shr x y) := nibbles_and_F00F 0x8#4 x y 0x6#4

theorem subn (x : Nibble) (y : Nibble) : Statement (.subn x y) := nibbles_and_F00F 0x8#4 x y 0x7#4

theorem shl (x : Nibble) (y : Nibble) : Statement (.shl x y) := nibbles_and_F00F 0x8#4 x y 0xE#4

theorem sneReg (x : Nibble) (y : Nibble) (u : Nibble) : Statement (.sneReg x y u) := nibbles_and_F000 0x9#4 x y u

theorem ldI (nnn : Addr) : Statement (.ldI nnn) := addr_and_F000 0xA#4 nnn

theorem jpV0 (nnn : Addr) : Statement (.jpV0 nnn) := addr_and_F000 0xB#4 nnn

theorem rnd (x : Nibble) (kk : Byte) : Statement (.rnd x kk) := byte_and_F000 0xC#4 x kk

theorem drw (x : Nibble) (y : Nibble) (n : Nibble) : Statement (.drw x y n) := nibbles_and_F000 0xD#4 x y n

theorem skp (x : Nibble) : Statement (.skp x) := byte_and_F0FF 0xE#4 x 0x9E#8

theorem sknp (x : Nibble) : Statement (.sknp x) := byte_and_F0FF 0xE#4 x 0xA1#8

theorem ldVxDt (x : Nibble) : Statement (.ldVxDt x) := byte_and_F0FF 0xF#4 x 0x07#8

theorem ldVxK (x : Nibble) : Statement (.ldVxK x) := byte_and_F0FF 0xF#4 x 0x0A#8

theorem ldDtVx (x : Nibble) : Statement (.ldDtVx x) := byte_and_F0FF 0xF#4 x 0x15#8

theorem ldStVx (x : Nibble) : Statement (.ldStVx x) := byte_and_F0FF 0xF#4 x 0x18#8

theorem addI (x : Nibble) : Statement (.addI x) := byte_and_F0FF 0xF#4 x 0x1E#8

theorem ldF (x : Nibble) : Statement (.ldF x) := byte_and_F0FF 0xF#4 x 0x29#8

theorem ldB (x : Nibble) : Statement (.ldB x) := byte_and_F0FF 0xF#4 x 0x33#8

theorem ldMemVx (x : Nibble) : Statement (.ldMemVx x) := byte_and_F0FF 0xF#4 x 0x55#8

theorem ldVxMem (x : Nibble) : Statement (.ldVxMem x) := byte_and_F0FF 0xF#4 x 0x65#8

end Sys2Proof.Laws.FixedBits
end

