-- ==== Sys2Proof/Laws/Step.lean ====
section
/-! SUPPORT. What an instruction can do and what a step can do, said once. -/

namespace Sys2Proof.Machine

/-! ### The meanings that can raise a fault: the two ways each can end -/

theorem execRet_cases (u : Nibble) (s : State) :
    (∃ w rest, s.stack = w :: rest ∧
        execRet u s = .next ((s.setStack rest).retire (encode (.ret u)) false w)) ∨
      (s.stack = [] ∧ execRet u s = raise s .stackUnderflow (encode (.ret u))) := by
  obtain ⟨hs, h⟩ | ⟨w, rest, hs, h⟩ := pop_cases s
  · exact .inr ⟨hs, by rw [execRet, h]⟩
  · exact .inl ⟨w, rest, hs, by rw [execRet, h]; rfl⟩

theorem execCall_cases (nnn : Addr) (s : State) :
    (s.stack.length < 16 ∧
        execCall nnn s = .next ((s.setStack (s.nextPc :: s.stack)).retire (encode (.call nnn)) false
          (zext nnn))) ∨
      (16 ≤ s.stack.length ∧ execCall nnn s = raise s .stackOverflow (encode (.call nnn))) := by
  obtain ⟨h, hs⟩ | ⟨h, hs⟩ := push_cases s s.nextPc
  · exact .inl ⟨hs, by rw [execCall, h]; rfl⟩
  · exact .inr ⟨hs, by rw [execCall, h]⟩

theorem execLdB_cases (x : Nibble) (s : State) :
    (s.i.toNat + 3 ≤ 4096 ∧
        execLdB x s = .next ((s.setMem (Memory.writeBytes s.mem s.i.toNat (bcdDigits (s.reg x)))).retire
          (encode (.ldB x)) false s.nextPc)) ∨
      (4096 < s.i.toNat + 3 ∧
        execLdB x s = raise s (.outOfBounds .write (max s.i.toNat 4096)) (encode (.ldB x))) := by
  have hl : (bcdDigits (s.reg x)).length = 3 := rfl
  obtain ⟨h, hs⟩ | ⟨h, hs⟩ := memWrite_cases s s.effAddr (bcdDigits (s.reg x))
  · exact .inl ⟨by rw [State.effAddr] at hs; omega, by rw [execLdB, h]; rfl⟩
  · exact .inr ⟨by rw [State.effAddr] at hs; omega, by rw [execLdB, h]; rfl⟩

theorem execLdMemVx_cases (x : Nibble) (s : State) :
    (s.i.toNat + x.toNat < 4096 ∧
        execLdMemVx x s = .next (((s.setMem (Memory.writeBytes s.mem s.i.toNat (s.regsUpTo x))).setI
          (s.advancedI x)).retire (encode (.ldMemVx x)) false s.nextPc)) ∨
      (4096 ≤ s.i.toNat + x.toNat ∧
        execLdMemVx x s =
          raise s (.outOfBounds .write (max s.i.toNat 4096)) (encode (.ldMemVx x))) := by
  have hl := length_regsUpTo s x
  obtain ⟨h, hs⟩ | ⟨h, hs⟩ := memWrite_cases s s.effAddr (s.regsUpTo x)
  · exact .inl ⟨by rw [State.effAddr] at hs; omega, by rw [execLdMemVx, h]; rfl⟩
  · exact .inr ⟨by rw [State.effAddr] at hs; omega, by rw [execLdMemVx, h]; rfl⟩

theorem execLdVxMem_cases (x : Nibble) (s : State) :
    (s.i.toNat + x.toNat < 4096 ∧
        execLdVxMem x s =
          .next (((s.fillRegs (Memory.readBytes s.mem s.i.toNat (x.toNat + 1))).setI
            (s.advancedI x)).retire (encode (.ldVxMem x)) false s.nextPc)) ∨
      (4096 ≤ s.i.toNat + x.toNat ∧
        execLdVxMem x s =
          raise s (.outOfBounds .read (max s.i.toNat 4096)) (encode (.ldVxMem x))) := by
  obtain ⟨h, hs⟩ | ⟨h, hs⟩ := memRead_cases s .read s.effAddr (x.toNat + 1)
  · exact .inl ⟨by rw [State.effAddr] at hs; omega, by rw [execLdVxMem, h]; rfl⟩
  · exact .inr ⟨by rw [State.effAddr] at hs; omega, by rw [execLdVxMem, h]; rfl⟩

/-- The drawing of a sprite of `n` rows at (V[x], V[y]) on the picture of `s` (R232). -/
def spriteCanvas (s : State) (x y n : Nibble) : Canvas :=
  drawRows (s.reg x) (s.reg y) 0 (Memory.readBytes s.mem s.i.toNat n.toNat) { fb := s.fb, col := false }

theorem execDrw_cases (x y n : Nibble) (s : State) :
    ((n.toNat = 0 ∨ s.i.toNat + n.toNat ≤ 4096) ∧
        execDrw x y n s =
          .next (((s.setFb (spriteCanvas s x y n).fb).setVF (flagByte (spriteCanvas s x y n).col)).retire
            (encode (.drw x y n)) true s.nextPc)) ∨
      ((1 ≤ n.toNat ∧ 4096 < s.i.toNat + n.toNat) ∧
        execDrw x y n s =
          raise s (.outOfBounds .read (max s.i.toNat 4096)) (encode (.drw x y n))) := by
  obtain ⟨h, hs⟩ | ⟨h, hs⟩ := memRead_cases s .read s.effAddr n.toNat
  · exact .inl ⟨hs, by rw [execDrw, h]; rfl⟩
  · exact .inr ⟨hs, by rw [execDrw, h]; rfl⟩

theorem execSkp_cases (x : Nibble) (s : State) :
    ((s.reg x).toNat ≤ 15 ∧
        execSkp x s = .next (s.retire (encode (.skp x)) false
          (s.skipPc (keyDown s.keys (s.reg x).toNat)))) ∨
      (15 < (s.reg x).toNat ∧ execSkp x s = raise s (.badKeyIndex (s.reg x)) (encode (.skp x))) := by
  obtain ⟨h, hs⟩ | ⟨h, hs⟩ := keyIndex_cases s x
  · exact .inl ⟨hs, by rw [execSkp, h]; rfl⟩
  · exact .inr ⟨hs, by rw [execSkp, h]⟩

theorem execSknp_cases (x : Nibble) (s : State) :
    ((s.reg x).toNat ≤ 15 ∧
        execSknp x s = .next (s.retire (encode (.sknp x)) false
          (s.skipPc (!keyDown s.keys (s.reg x).toNat)))) ∨
      (15 < (s.reg x).toNat ∧ execSknp x s = raise s (.badKeyIndex (s.reg x)) (encode (.sknp x))) := by
  obtain ⟨h, hs⟩ | ⟨h, hs⟩ := keyIndex_cases s x
  · exact .inl ⟨hs, by rw [execSknp, h]; rfl⟩
  · exact .inr ⟨hs, by rw [execSknp, h]⟩

/-! ### Every instruction -/

/-- Every instruction either completes in some state `t` its writes left, with `pc` committed, the
timers ticked and the result reported, or raises one fault in the state it started in. -/
theorem exec_cases (i : Instr) (s : State) :
    (∃ t w p, exec i s = .next (t.retire (encode i) w p) ∧ SameInputs s t) ∨
      ∃ c, exec i s = raise s c (encode i) := by
  cases i
  case ret u =>
    obtain ⟨w, rest, -, h⟩ | ⟨-, h⟩ := execRet_cases u s
    · exact .inl ⟨_, _, _, h, by simp [SameInputs]⟩
    · exact .inr ⟨_, h⟩
  case call nnn =>
    obtain ⟨-, h⟩ | ⟨-, h⟩ := execCall_cases nnn s
    · exact .inl ⟨_, _, _, h, by simp [SameInputs]⟩
    · exact .inr ⟨_, h⟩
  case drw x y n =>
    obtain ⟨-, h⟩ | ⟨-, h⟩ := execDrw_cases x y n s
    · exact .inl ⟨_, _, _, h, by simp [SameInputs]⟩
    · exact .inr ⟨_, h⟩
  case ldB x =>
    obtain ⟨-, h⟩ | ⟨-, h⟩ := execLdB_cases x s
    · exact .inl ⟨_, _, _, h, by simp [SameInputs]⟩
    · exact .inr ⟨_, h⟩
  case ldMemVx x =>
    obtain ⟨-, h⟩ | ⟨-, h⟩ := execLdMemVx_cases x s
    · exact .inl ⟨_, _, _, h, by simp [SameInputs]⟩
    · exact .inr ⟨_, h⟩
  case ldVxMem x =>
    obtain ⟨-, h⟩ | ⟨-, h⟩ := execLdVxMem_cases x s
    · exact .inl ⟨_, _, _, h, by simp [SameInputs]⟩
    · exact .inr ⟨_, h⟩
  case skp x =>
    obtain ⟨-, h⟩ | ⟨-, h⟩ := execSkp_cases x s
    · exact .inl ⟨_, _, _, h, by simp [SameInputs]⟩
    · exact .inr ⟨_, h⟩
  case sknp x =>
    obtain ⟨-, h⟩ | ⟨-, h⟩ := execSknp_cases x s
    · exact .inl ⟨_, _, _, h, by simp [SameInputs]⟩
    · exact .inr ⟨_, h⟩
  all_goals exact .inl ⟨_, _, _, rfl, by simp [SameInputs]⟩

/-- An unknown word is a no-op that advances PC and ticks, or in strict mode a fault (R98). -/
theorem execUnknown_cases (op : Word) (s : State) :
    (s.strict = false ∧ execUnknown op s = .next (s.retire op false s.nextPc)) ∨
      (s.strict = true ∧
        execUnknown op s = raise s .unknownOpcode op) := by
  unfold execUnknown
  cases h : s.strict <;> simp

/-- The end of an executed step: the working copy is kept, or, if it holds a fault, discarded. -/
theorem commit_next (s t : State) :
    s.commit (.next t) = match t.fault with
      | none => .next t
      | some f => .next (s.faulted f) := rfl

/-- A waiting step ends the wait with the least key down, or changes nothing but the result (R123, R124). -/
theorem waitStep_cases (s : State) (r : Nibble) :
    ((∀ j < 16, keyDown s.keys j = false) ∧ s.waitStep r = s.report .idle) ∨
      ∃ k : Nibble, keyDown s.keys k.toNat = true ∧ (∀ j < k.toNat, keyDown s.keys j = false) ∧
        s.waitStep r = ((s.setReg r (k.setWidth 8)).setKw .notWaiting).report (.resumed k) := by
  obtain ⟨h, hk⟩ | ⟨k, h, hk, hl⟩ := firstKey_cases s.keys
  · exact .inl ⟨hk, by rw [State.waitStep, h]⟩
  · exact .inr ⟨k, hk, hl, by rw [State.waitStep, h]⟩

/-- What a step does in each of the cases of R305, in that order. -/
theorem stepWith_cases (keys : Keys) (rnd : Byte) (s : State) :
    (s.loaded = false ∧ stepWith keys rnd s = .next (s.report .notLoaded)) ∨
    (s.loaded = true ∧ ∃ f, s.fault = some f ∧ stepWith keys rnd s = .next (s.report (.halted f))) ∨
    (s.loaded = true ∧ s.fault = none ∧ ∃ r, s.kw = .waiting r ∧
      stepWith keys rnd s = .next ((s.latchKeys keys).waitStep r)) ∨
    (s.loaded = true ∧ s.fault = none ∧ s.kw = .notWaiting ∧ 4096 ≤ s.pc.toNat + 1 ∧
      stepWith keys rnd s = .next (s.faulted
        { cause := .outOfBounds .fetch (max s.pc.toNat 4096), pc := s.pc, op := none })) ∨
    (s.loaded = true ∧ s.fault = none ∧ s.kw = .notWaiting ∧ s.pc.toNat + 1 < 4096 ∧
      stepWith keys rnd s = s.commit
        (execWord (combine (Memory.read s.mem s.pc.toNat) (Memory.read s.mem (s.pc.toNat + 1)))
          ((s.latchKeys keys).latchRnd rnd))) := by
  unfold stepWith
  cases hl : s.loaded with
  | false => exact .inl ⟨rfl, rfl⟩
  | true =>
    refine .inr ?_
    cases hf : s.fault with
    | some f => exact .inl ⟨rfl, f, rfl, rfl⟩
    | none =>
      refine .inr ?_
      cases hk : s.kw with
      | waiting r => exact .inl ⟨rfl, rfl, r, rfl, rfl⟩
      | notWaiting =>
        refine .inr ?_
        obtain ⟨h, hp⟩ | ⟨h, hp⟩ := fetch_cases ((s.latchKeys keys).latchRnd rnd)
        · exact .inr ⟨rfl, rfl, rfl, hp, by simp [State.fetchExecute, h]⟩
        · exact .inl ⟨rfl, rfl, rfl, hp, by simp [State.fetchExecute, h]⟩

end Sys2Proof.Machine
end

