-- ==== Sys2Proof/Tests/Slice0.lean ====
section
/-! SUPPORT. Tests on fixed values: the checks of WellFormed, the decoding of every row, one or two steps per
instruction with the results of 95_test_vectors.md, and for each statement that has hypotheses a state and
operands that meet them. Expected values come from the spec, never from the model. -/

namespace Sys2Proof.Tests

open Sys2Proof.Machine

/-! ### Helpers -/

/-- The start of the vectors of 95_test_vectors.md: the state after a load of an image that holds `op`
at 0x200. -/
def start (op : Word) : State := (loadProgram (wordBytes op) State.reset).2

/-- `start` with registers set. -/
def startWith (op : Word) (regs : List (Nibble × Byte)) : State :=
  regs.foldl (fun s p => s.setReg p.1 p.2) (start op)

/-- The state one step leaves, with these inputs. -/
def after (s : State) (keys : Keys := 0) (rnd : Byte := 0) : State :=
  match stepWith keys rnd s with
  | .next t => t
  | .fault _ => s
  | .refused _ => s

/-- The state one instruction leaves. -/
def did (i : Instr) (s : State) : State :=
  match exec i s with
  | .next t => t
  | .fault _ => s
  | .refused _ => s

/-- The step completed the word without a framebuffer write. -/
def ran (op : Word) : Option StepResult := some (.executed op false)

/-- The result and latch of a fault raised at 0x200 by `op`. -/
def failed (c : FaultCause) (op : Word) : FaultRecord := { cause := c, pc := 0x200, op := some op }

/-- A picture with one pixel on. -/
def onePixel (x : Fin 64) (y : Fin 32) : Frame := Frame.blank.toggle x y

/-- A call stack of `n` entries. -/
def deep (n : Nat) : List Word := List.replicate n 0x202

/-! ### WellFormed: each check refuses an ill-formed term -/

theorem test_canonical_refuses_cls : (Instr.cls 5).canonical = false := by decide
theorem test_canonical_refuses_ret : (Instr.ret 1).canonical = false := by decide
theorem test_canonical_refuses_se_reg : (Instr.seReg 1 2 3).canonical = false := by decide
theorem test_canonical_refuses_sne_reg : (Instr.sneReg 1 2 0xF).canonical = false := by decide
theorem test_canonical_accepts : (Instr.seReg 1 2 0).canonical = true := by decide

/-- L2: 3585 bytes do not fit. -/
theorem test_fits_refuses (b : Byte) : Image.fits (List.replicate 3585 b) = false := by
  rw [Image.fits, List.length_replicate]
  decide

/-- L1: 3584 bytes fit. -/
theorem test_fits_accepts (b : Byte) : Image.fits (List.replicate 3584 b) = true := by
  rw [Image.fits, List.length_replicate]
  decide

/-! ### Decoding: for every row of the opcode table a word written out from its encoding (30_encoding.md R92,
R101, and the match and mask of its own rule) -/

theorem test_decode_cls : decodeWord 0b0000_0101_1110_0000 = .ok (.cls 5) := by decide
theorem test_decode_ret : decodeWord 0b0000_1111_1110_1110 = .ok (.ret 15) := by decide
theorem test_decode_jp : decodeWord 0b0001_0010_0011_0100 = .ok (.jp 0x234) := by decide
theorem test_decode_call : decodeWord 0b0010_1111_0000_0001 = .ok (.call 0xF01) := by decide
theorem test_decode_se_imm : decodeWord 0b0011_1010_0101_1100 = .ok (.seImm 10 0x5C) := by decide
theorem test_decode_sne_imm : decodeWord 0b0100_0001_1000_0011 = .ok (.sneImm 1 0x83) := by decide
theorem test_decode_se_reg : decodeWord 0b0101_0001_0010_0110 = .ok (.seReg 1 2 6) := by decide
theorem test_decode_ld_imm : decodeWord 0b0110_1010_0011_1111 = .ok (.ldImm 10 0x3F) := by decide
theorem test_decode_add_imm : decodeWord 0b0111_1100_1111_0001 = .ok (.addImm 12 0xF1) := by decide
theorem test_decode_ld_reg : decodeWord 0b1000_0001_0010_0000 = .ok (.ldReg 1 2) := by decide
theorem test_decode_or : decodeWord 0b1000_0011_0100_0001 = .ok (.or 3 4) := by decide
theorem test_decode_and : decodeWord 0b1000_0101_0110_0010 = .ok (.and 5 6) := by decide
theorem test_decode_xor : decodeWord 0b1000_0111_1000_0011 = .ok (.xor 7 8) := by decide
theorem test_decode_add_reg : decodeWord 0b1000_1001_1010_0100 = .ok (.addReg 9 10) := by decide
theorem test_decode_sub : decodeWord 0b1000_1011_1100_0101 = .ok (.sub 11 12) := by decide
theorem test_decode_shr : decodeWord 0b1000_1101_1110_0110 = .ok (.shr 13 14) := by decide
theorem test_decode_subn : decodeWord 0b1000_1111_0000_0111 = .ok (.subn 15 0) := by decide
theorem test_decode_shl : decodeWord 0b1000_0001_1111_1110 = .ok (.shl 1 15) := by decide
theorem test_decode_sne_reg : decodeWord 0b1001_0010_0001_1001 = .ok (.sneReg 2 1 9) := by decide
theorem test_decode_ld_i : decodeWord 0b1010_1100_0000_0101 = .ok (.ldI 0xC05) := by decide
theorem test_decode_jp_v0 : decodeWord 0b1011_0000_1111_0000 = .ok (.jpV0 0x0F0) := by decide
theorem test_decode_rnd : decodeWord 0b1100_0011_0000_1111 = .ok (.rnd 3 0x0F) := by decide
theorem test_decode_drw : decodeWord 0b1101_1010_1011_0101 = .ok (.drw 10 11 5) := by decide
theorem test_decode_skp : decodeWord 0b1110_0100_1001_1110 = .ok (.skp 4) := by decide
theorem test_decode_sknp : decodeWord 0b1110_1101_1010_0001 = .ok (.sknp 13) := by decide
theorem test_decode_ld_x_dt : decodeWord 0b1111_0101_0000_0111 = .ok (.ldVxDt 5) := by decide
theorem test_decode_ld_x_k : decodeWord 0b1111_0011_0000_1010 = .ok (.ldVxK 3) := by decide
theorem test_decode_ld_dt_x : decodeWord 0b1111_1001_0001_0101 = .ok (.ldDtVx 9) := by decide
theorem test_decode_ld_st_x : decodeWord 0b1111_0010_0001_1000 = .ok (.ldStVx 2) := by decide
theorem test_decode_add_i : decodeWord 0b1111_0001_0001_1110 = .ok (.addI 1) := by decide
theorem test_decode_ld_f : decodeWord 0b1111_1000_0010_1001 = .ok (.ldF 8) := by decide
theorem test_decode_ld_b : decodeWord 0b1111_0110_0011_0011 = .ok (.ldB 6) := by decide
theorem test_decode_ld_mem_x : decodeWord 0b1111_1110_0101_0101 = .ok (.ldMemVx 14) := by decide
theorem test_decode_ld_x_mem : decodeWord 0b1111_0111_0110_0101 = .ok (.ldVxMem 7) := by decide

/-- S8, S9, A18, R97: words with no row are unknown. -/
theorem test_decode_unknown :
    decodeWord 0x0123 = .error (.unknown 0x0123) ∧ decodeWord 0x00FF = .error (.unknown 0x00FF) ∧
      decodeWord 0x8128 = .error (.unknown 0x8128) ∧ decodeWord 0xE000 = .error (.unknown 0xE000) ∧
      decodeWord 0xF030 = .error (.unknown 0xF030) := by decide

/-- R64, R90: an instruction is two bytes, high byte first; one byte is no instruction. -/
theorem test_decode_bytes :
    decode [0x6A, 0x3F, 0x12] = .ok (.ldImm 0xA 0x3F) ∧
      decode [0x6A] = .error (.truncated 1) := by
  decide

/-- The bits of an opcode-table word are numbered from the least significant bit of the word (R8). -/
theorem test_decode_table_word : decodeTableWord 16 0x6A3F = some (.ldImm 0xA 0x3F) := by decide

/-! ### The step (95_test_vectors.md 2.1) -/

/-- S4: the last full word of memory can be fetched; S5: PC 0xFFF cannot. -/
theorem test_fetch_edge :
    (after { start 0 with pc := 0xFFE, mem := [(0xFFE, 0x12), (0xFFF, 0x34)] }).pc = 0x234 ∧
      (after { start 0 with pc := 0xFFF }).fault =
        some { cause := .outOfBounds .fetch 4096, pc := 0xFFF, op := none } := by decide

/-- S7: an odd PC fetches the bytes at PC and PC + 1. -/
theorem test_fetch_odd :
    (after { start 0 with pc := 0x201, mem := [(0x201, 0x61), (0x202, 0x23)] }).reg 1 = 0x23 := by decide

/-- S8, S11: an unknown word only advances PC and ticks. S9: in strict mode it faults. -/
theorem test_unknown :
    (after { start 0x8128 with dt := 2 }).pc = 0x202 ∧ (after { start 0x8128 with dt := 2 }).dt = 1 ∧
      (after { start 0x00FF with strict := true }).result =
        some (.fault (failed .unknownOpcode 0x00FF)) := by decide

/-- S13: a load clears the latch. -/
theorem test_load_clears_fault :
    (loadProgram [0x61, 0x23] (after { start 0x00FF with strict := true })).2.fault = none := by decide

/-- L4: a load installs the font again over a byte a program wrote. -/
theorem test_load_reinstalls_font :
    Memory.read (loadProgram [] { start 0 with mem := [(0x10, 0x55)] }).2.mem 0x10 = 0x10 := by decide

/-- K11 step 3: the least key down ends the wait; K11 step 2: no key, no change. -/
theorem test_wait :
    (after { start 0 with kw := .waiting 3, dt := 4 } 0b0000001000010000).reg 3 = 4 ∧
      (after { start 0 with kw := .waiting 3, dt := 4 } 0b0000001000010000).dt = 4 ∧
      (after { start 0 with kw := .waiting 3, dt := 4 }).result = some .idle := by decide

/-- `withFetchWord` places the word where the next step fetches it. -/
theorem test_with_fetch_word : (after (State.reset.withFetchWord 16 0x6123)).reg 1 = 0x23 := by decide

/-! ### Control flow (95_test_vectors.md 2.2) -/

/-- B2. -/
theorem test_ret : (after { start 0x00EE with stack := [0x206] }).pc = 0x206 ∧
    (after { start 0x00EE with stack := [0x206] }).stack = [] := by decide
/-- B3: the ignored bits are in the record. -/
theorem test_ret_empty : (after (start 0x05EE)).fault = some (failed .stackUnderflow 0x05EE) := by decide
/-- B4, B5. -/
theorem test_jp : (after (start 0x1204)).pc = 0x204 ∧
    (after { start 0x1200 with dt := 3 }).dt = 2 := by decide
/-- B6. -/
theorem test_call : (after (start 0x2204)).pc = 0x204 ∧ (after (start 0x2204)).stack = [0x202] := by decide
/-- B7. -/
theorem test_call_full : (after { start 0x2204 with stack := deep 16 }).result =
    some (.fault (failed .stackOverflow 0x2204)) := by decide
/-- B8, B9. -/
theorem test_se_imm : (after (start 0x3100)).pc = 0x204 ∧ (after (start 0x3101)).pc = 0x202 := by decide
/-- B10, B11. -/
theorem test_sne_imm : (after (start 0x4101)).pc = 0x204 ∧
    (after (startWith 0x4205 [(2, 5)])).pc = 0x202 := by decide
/-- B12. -/
theorem test_se_reg : (after (startWith 0x5121 [(1, 7), (2, 7)])).pc = 0x204 := by decide
/-- B14, B15. -/
theorem test_sne_reg : (after (start 0x9110)).pc = 0x202 ∧
    (after (startWith 0x9340 [(3, 1), (4, 2)])).pc = 0x204 := by decide
/-- B16, B18. -/
theorem test_jp_v0 : (after (startWith 0xB300 [(0, 4)])).pc = 0x304 ∧
    (after (startWith 0xBFFF [(0, 0xFF)])).pc = 0x10FE := by decide
/-- B19: a skip past the end. -/
theorem test_skip_past_end :
    (after { start 0 with pc := 0xFFC, mem := [(0xFFC, 0x30)] }).pc = 0x1000 := by decide

/-! ### Register arithmetic (95_test_vectors.md 2.3, W2, W3) -/

/-- A1, A2. -/
theorem test_ld_imm : (after (start 0x6A3F)).reg 0xA = 0x3F ∧
    (after (startWith 0x6F00 [(15, 0x44)])).reg 15 = 0 := by decide
/-- A4, A5. -/
theorem test_add_imm : (after (start 0x71FF)).reg 1 = 0xFF ∧ (after (start 0x71FF)).reg 15 = 0 ∧
    (after (startWith 0x7F01 [(15, 0xFF)])).reg 15 = 0 := by decide
/-- A6. -/
theorem test_ld_reg : (after (startWith 0x8120 [(2, 0x11)])).reg 1 = 0x11 := by decide
/-- A7: VF is not written. -/
theorem test_or : (after (startWith 0x8121 [(1, 0x0C), (2, 0x0A), (15, 0x55)])).reg 1 = 0x0E ∧
    (after (startWith 0x8121 [(1, 0x0C), (2, 0x0A), (15, 0x55)])).reg 15 = 0x55 := by decide
/-- A7. -/
theorem test_and : (after (startWith 0x8122 [(1, 0x0C), (2, 0x0A), (15, 0x55)])).reg 1 = 0x08 ∧
    (after (startWith 0x8122 [(1, 0x0C), (2, 0x0A), (15, 0x55)])).reg 15 = 0x55 := by decide
/-- A7, A8. -/
theorem test_xor : (after (startWith 0x8123 [(1, 0x0C), (2, 0x0A), (15, 0x55)])).reg 1 = 0x06 ∧
    (after (startWith 0x8113 [(1, 0x5A), (15, 0x77)])).reg 1 = 0x00 := by decide
/-- W2. -/
theorem test_add_reg : (after (startWith 0x8124 [(1, 0xFF), (2, 1)])).reg 1 = 0 ∧
    (after (startWith 0x8124 [(1, 0xFF), (2, 1)])).reg 15 = 1 ∧
    (after (startWith 0x8124 [(1, 0x7F), (2, 0x80)])).reg 15 = 0 := by decide
/-- A9, A10: x = F and y = F. -/
theorem test_add_reg_vf : (after (startWith 0x8F14 [(1, 0x20), (15, 0xF0)])).reg 15 = 1 ∧
    (after (startWith 0x81F4 [(1, 0xFF), (15, 1)])).reg 1 = 0 := by decide
/-- W3. -/
theorem test_sub : (after (startWith 0x8125 [(1, 5), (2, 7)])).reg 1 = 0xFE ∧
    (after (startWith 0x8125 [(1, 5), (2, 7)])).reg 15 = 0 ∧
    (after (startWith 0x8125 [(1, 9), (2, 9)])).reg 15 = 1 := by decide
/-- A11: x = F. -/
theorem test_sub_vf : (after (startWith 0x8F15 [(1, 5), (15, 3)])).reg 15 = 0 := by decide
/-- A12: the flag is bit 0 of V2, not of V1. A13. -/
theorem test_shr : (after (startWith 0x8126 [(1, 1), (2, 2)])).reg 15 = 0 ∧
    (after (startWith 0x8116 [(1, 3)])).reg 1 = 1 ∧ (after (startWith 0x8116 [(1, 3)])).reg 15 = 1 := by
  decide
/-- A14: x = F. -/
theorem test_shr_vf : (after (startWith 0x8F16 [(1, 1), (15, 0x80)])).reg 15 = 1 := by decide
/-- W3. -/
theorem test_subn : (after (startWith 0x8127 [(1, 7), (2, 5)])).reg 1 = 0xFE ∧
    (after (startWith 0x8127 [(1, 7), (2, 5)])).reg 15 = 0 ∧
    (after (startWith 0x8127 [(1, 5), (2, 7)])).reg 15 = 1 := by decide
/-- A15: the flag is bit 7 of V2, not of V1. A17. -/
theorem test_shl : (after (startWith 0x812E [(1, 0x81), (2, 1)])).reg 1 = 2 ∧
    (after (startWith 0x812E [(1, 0x81), (2, 1)])).reg 15 = 0 ∧
    (after (startWith 0x812E [(1, 1), (2, 0x80)])).reg 15 = 1 := by decide
/-- A19, A20. -/
theorem test_rnd : (after (start 0xC30F) 0 0xB7).reg 3 = 7 ∧ (after (start 0xC300) 0 0xB7).reg 3 = 0 := by
  decide

/-! ### Index register and memory (95_test_vectors.md 2.4) -/

/-- M1. -/
theorem test_ld_i : (after (start 0xA300)).i = 0x300 := by decide
/-- M2, M3. -/
theorem test_add_i : (after { startWith 0xF11E [(1, 1)] with i := 0xFFF }).i = 0 ∧
    (after { startWith 0xF11E [(1, 1)] with i := 0xFFF }).reg 15 = 1 ∧
    (after { startWith 0xF11E [(1, 0xFF)] with i := 0xF00 }).reg 15 = 0 := by decide
/-- M4: x = F. -/
theorem test_add_i_vf : (after { startWith 0xFF1E [(15, 2)] with i := 0xFFE }).i = 0 ∧
    (after { startWith 0xFF1E [(15, 2)] with i := 0xFFE }).reg 15 = 1 := by decide
/-- M5, M7. -/
theorem test_ld_f : (after (startWith 0xF029 [(0, 0x0A)])).i = 0x032 ∧
    (after (startWith 0xF029 [(0, 0xFF)])).i = 0x4FB := by decide
/-- M8. -/
theorem test_ld_b :
    Memory.readBytes (after { startWith 0xF033 [(0, 0xCF)] with i := 0x300 }).mem 0x300 3 = [2, 0, 7] := by
  decide
/-- M12. -/
theorem test_ld_b_faults : (after { startWith 0xF033 [(0, 1)] with i := 0xFFE }).fault =
    some (failed (.outOfBounds .write 4096) 0xF033) := by decide
/-- M13. -/
theorem test_ld_mem_x :
    Memory.readBytes (after { startWith 0xF255 [(0, 1), (1, 2), (2, 3)] with i := 0x400 }).mem 0x400 4 =
      [1, 2, 3, 0] ∧
      (after { startWith 0xF255 [(0, 1), (1, 2), (2, 3)] with i := 0x400 }).i = 0x403 := by decide
/-- M14, M15: the top of memory. -/
theorem test_ld_mem_x_edge :
    (after { startWith 0xFF55 [(15, 0x10)] with i := 0xFF0 }).i = 0 ∧
      Memory.read (after { startWith 0xFF55 [(15, 0x10)] with i := 0xFF0 }).mem 0xFFF = 0x10 ∧
      (after { start 0xFF55 with i := 0xFF1 }).fault =
        some (failed (.outOfBounds .write 4096) 0xFF55) := by decide
/-- M19: the bytes of glyph 0. -/
theorem test_ld_x_mem :
    (after (start 0xF265)).reg 0 = 0xF0 ∧ (after (start 0xF265)).reg 1 = 0x90 ∧
      (after (start 0xF265)).reg 3 = 0 ∧ (after (start 0xF265)).i = 3 := by decide
/-- M17, M18. -/
theorem test_ld_x_mem_edge :
    (after { start 0xF065 with i := 0xFFF }).i = 0 ∧
      (after { start 0xF165 with i := 0xFFF }).fault =
        some (failed (.outOfBounds .read 4096) 0xF165) := by decide

/-! ### Display (95_test_vectors.md 2.5, W4, W5) -/

/-- G1, G3. -/
theorem test_cls :
    (after { start 0x05E0 with fb := onePixel 3 3, dt := 2 }).fb = Frame.blank ∧
      (after { start 0x05E0 with fb := onePixel 3 3, dt := 2 }).dt = 1 ∧
      (after { start 0x05E0 with fb := onePixel 3 3, dt := 2 }).result =
        some (.executed 0x05E0 true) := by decide
/-- The start of G4. -/
def wrapped : State :=
  { startWith 0xD011 [(0, 126), (1, 40)] with
    i := 0x300
    mem := Memory.writeBytes [] 0x200 [0xD0, 0x11] ++ [(0x300, 0xFF)] }
/-- The start of G9. -/
def collided : State :=
  { start 0xD012 with
    i := 0x300
    fb := onePixel 1 0
    mem := Memory.writeBytes [] 0x200 [0xD0, 0x12] ++ [(0x300, 0xF0)] }
/-- G4: wrap in x; the origin is taken modulo 64 and 32. G9: the pixel that was on goes off, VF = 1. -/
theorem test_drw :
    (after wrapped).fb.pixel 62 8 = true ∧ (after wrapped).fb.pixel 0 8 = true ∧
      (after wrapped).fb.pixel 5 8 = true ∧ (after wrapped).fb.pixel 6 8 = false ∧
      (after wrapped).fb.pixel 61 8 = false ∧ (after wrapped).reg 15 = 0 ∧
      (after collided).fb.pixel 0 0 = true ∧ (after collided).fb.pixel 1 0 = false ∧
      (after collided).fb.pixel 3 0 = true ∧ (after collided).reg 15 = 1 := by decide
/-- G6: no row, VF = 0. G8: a sprite that leaves memory. -/
theorem test_drw_edge :
    (after (startWith 0xD010 [(15, 1)])).reg 15 = 0 ∧
      (after { startWith 0xD012 [(15, 9)] with i := 0xFFF }).reg 15 = 9 ∧
      (after { startWith 0xD012 [(15, 9)] with i := 0xFFF }).fault =
        some (failed (.outOfBounds .read 4096) 0xD012) := by decide

/-! ### Keys and timers (95_test_vectors.md 2.6) -/

/-- K1, K2. -/
theorem test_skp : (after (startWith 0xE49E [(4, 7)]) 0x0080).pc = 0x204 ∧
    (after (startWith 0xE49E [(4, 7)]) 0x0040).pc = 0x202 := by decide
/-- K3, K4. -/
theorem test_sknp : (after (startWith 0xE4A1 [(4, 7)])).pc = 0x204 ∧
    (after (startWith 0xE4A1 [(4, 7)]) 0x0080).pc = 0x202 := by decide
/-- K5. -/
theorem test_sknp_faults : (after (startWith 0xE4A1 [(4, 0x10)])).fault =
    some (failed (.badKeyIndex 0x10) 0xE4A1) := by decide
/-- K10. -/
theorem test_ld_x_dt : (after { start 0xF507 with dt := 3 }).reg 5 = 3 ∧
    (after { start 0xF507 with dt := 3 }).dt = 2 := by decide
/-- K11 step 1: the key down in the entering step is not tested. -/
theorem test_ld_x_k : (after { start 0xF30A with dt := 5 } 0x0004).kw = .waiting 3 ∧
    (after { start 0xF30A with dt := 5 } 0x0004).dt = 4 ∧
    (after { start 0xF30A with dt := 5 } 0x0004).pc = 0x202 := by decide
/-- K6, K7. -/
theorem test_ld_dt_x : (after (startWith 0xF315 [(3, 5)])).dt = 4 ∧
    (after (start 0xF315)).dt = 0 := by decide
/-- K8, K9. -/
theorem test_ld_st_x : (after (startWith 0xF218 [(2, 1)])).st = 0 ∧
    (after (startWith 0xF218 [(2, 0x10)])).st = 0x0F := by decide
/-- S12: the sound is on while ST is not 0 (R257). -/
theorem test_sound : (after { start 0x6123 with dt := 1, st := 3 }).st = 2 ∧
    (after { start 0x6123 with dt := 1, st := 3 }).soundOn = true := by decide

/-! ### Witnesses: what meets the hypotheses of the statements -/

/-- Encoding. -/
theorem witness_EncodeOfDecode : ∃ op i, decodeWord op = .ok i := ⟨0x5121, .seReg 1 2 1, by decide⟩
theorem witness_EncodedBy : (0x05EE : Word) &&& 0xF0FF = 0x00EE ∧ (0x8126 : Word) &&& 0xF00F = 0x8006 ∧
    (0xBF80 : Word) &&& 0xF000 = 0xB000 := by decide
/-- One unknown word of each class of R97 and a word of the other branch. -/
theorem witness_UnknownEncodingsClassified :
    (0x0000 / 4096 = 0x0 ∧ 0x0000 % 256 ∉ [0xE0, 0xEE]) ∧
      (0x812F / 4096 = 0x8 ∧ 0x812F % 16 ∈ [0x8, 0x9, 0xA, 0xB, 0xC, 0xD, 0xF]) ∧
      (0xE0FF / 4096 = 0xE ∧ 0xE0FF % 256 ∉ [0x9E, 0xA1]) ∧
      (0xF030 / 4096 = 0xF ∧
        0xF030 % 256 ∉ [0x07, 0x0A, 0x15, 0x18, 0x1E, 0x29, 0x33, 0x55, 0x65]) ∧
      decodeWord 0x9999 = .ok (.sneReg 9 9 9) := by decide
theorem witness_FetchCombinesBigEndian : ∃ s : State, s.pc.toNat + 1 < 4096 ∧ s.pc.toNat = 4094 :=
  ⟨{ start 0 with pc := 0xFFE }, by decide⟩

/-- Control flow. -/
theorem witness_RetPopsReturnAddress_pop : ∃ (s : State) (w : Word) (rest : List Word),
    s.stack = w :: rest := ⟨{ start 0 with stack := [0x206] }, 0x206, [], rfl⟩
theorem witness_RetPopsReturnAddress_empty : ∃ s : State, s.stack = [] := ⟨start 0, rfl⟩
theorem witness_CallPushesReturnAddress_last : ∃ s : State, s.stack.length < 16 ∧ s.stack.length = 15 :=
  ⟨{ start 0 with stack := deep 15 }, by decide⟩
theorem witness_CallPushesReturnAddress_full : ∃ s : State, 16 ≤ s.stack.length :=
  ⟨{ start 0 with stack := deep 16 }, by decide⟩

/-- Flags: a destination that is not VF, and a register that is neither; VF as a destination. -/
theorem witness_flag_destinations : ∃ x k : Nibble, x ≠ 15 ∧ k ≠ x ∧ k ≠ 15 := ⟨1, 2, by decide⟩

/-- Memory transfers at the edge of memory. -/
theorem witness_LdBStoresDecimalDigits_fits : ∃ s : State, s.i.toNat + 2 < 4096 ∧ s.i.toNat = 0xFFD :=
  ⟨{ start 0 with i := 0xFFD }, by decide⟩
theorem witness_LdBStoresDecimalDigits_crosses : ∃ s : State, 4096 ≤ s.i.toNat + 2 ∧ s.i.toNat = 0xFFE :=
  ⟨{ start 0 with i := 0xFFE }, by decide⟩
theorem witness_Block_fits : ∃ (s : State) (x k : Nibble), s.i.toNat + x.toNat < 4096 ∧
    s.i.toNat + x.toNat = 4095 ∧ k.toNat ≤ x.toNat := ⟨{ start 0 with i := 0xFF0 }, 15, 15, by decide⟩
theorem witness_Block_crosses : ∃ (s : State) (x : Nibble), 4096 ≤ s.i.toNat + x.toNat ∧
    s.i.toNat + x.toNat = 4096 := ⟨{ start 0 with i := 0xFF1 }, 15, by decide⟩

/-- Drawing: no row at the last address, a sprite that ends at the last byte, one that leaves memory. -/
theorem witness_Draw_none : ∃ (s : State) (n : Nibble), n.toNat = 0 ∧ s.i.toNat = 4095 :=
  ⟨{ start 0 with i := 0xFFF }, 0, by decide⟩
theorem witness_Draw_fits : ∃ (s : State) (n : Nibble), s.i.toNat + n.toNat = 4096 ∧ n.toNat = 15 :=
  ⟨{ start 0 with i := 0xFF1 }, 15, by decide⟩
theorem witness_Draw_crosses : ∃ (s : State) (n : Nibble), 1 ≤ n.toNat ∧ 4096 < s.i.toNat + n.toNat ∧
    s.i.toNat + n.toNat = 4097 := ⟨{ start 0 with i := 0xFFF }, 2, by decide⟩
/-- Glyph 0 at the origin covers pixel (0, 0), which is on or off. -/
theorem witness_Draw_covers :
    SpriteCovers { start 0 with fb := onePixel 0 0 } 0 0 5 0 0 ∧
      ({ start 0 with fb := onePixel 0 0 } : State).fb.pixel 0 0 = true ∧
      (start 0).fb.pixel 0 0 = false :=
  ⟨⟨0, by decide, 0, by decide, by decide, by decide, by decide⟩, by decide, by decide⟩
/-- With no row nothing is covered. -/
theorem witness_Draw_not_covers : ¬SpriteCovers (start 0) 0 0 0 0 0 := by
  rintro ⟨r, hr, -⟩
  exact absurd hr (Nat.not_lt_zero r)
/-- W4: glyph 0 drawn twice at the origin. -/
theorem witness_DrawTwiceRestoresPicture : ∃ s t w : State,
    s.i.toNat + (5 : Nibble).toNat ≤ 4096 ∧ exec (.drw 0 0 5) s = .next t ∧ t.reg 0 = s.reg 0 ∧
      exec (.drw 0 0 5) t = .next w :=
  ⟨start 0, did (.drw 0 0 5) (start 0), did (.drw 0 0 5) (did (.drw 0 0 5) (start 0)), by decide, rfl,
    by decide, rfl⟩

/-- Keys. -/
theorem witness_KeySkips_last : ∃ (s : State) (x : Nibble), (s.reg x).toNat ≤ 15 ∧ (s.reg x).toNat = 15 :=
  ⟨startWith 0 [(4, 15)], 4, by decide⟩
theorem witness_KeySkips_past : ∃ (s : State) (x : Nibble), 15 < (s.reg x).toNat ∧ (s.reg x).toNat = 16 :=
  ⟨startWith 0 [(4, 16)], 4, by decide⟩

/-- The step: an instruction that completes, and one that faults. -/
theorem ready_start (op : Word) : ReadyToExecute (start op) := 
  ⟨rfl, rfl, rfl, show 0x200 + 1 < 4096 by decide⟩
theorem witness_StepRuns_completes : ∃ (s : State) (i : Instr), ReadyToExecute s ∧
    decodeWord (wordAtPc s) = .ok i ∧ (did i { s with polls := s.polls + 1 }).fault = none :=
  ⟨start 0x6123, .ldImm 1 0x23, ready_start _, by decide, by decide⟩
theorem witness_StepRuns_faults : ∃ (s : State) (i : Instr) (f : FaultRecord), ReadyToExecute s ∧
    decodeWord (wordAtPc s) = .ok i ∧ (did i { s with polls := s.polls + 1 }).fault = some f :=
  ⟨start 0x00EE, .ret 0, failed .stackUnderflow 0x00EE, ready_start _, by decide, by decide⟩
theorem witness_UnknownWordIsNoOp : ∃ s : State, ReadyToExecute s ∧ wordAtPc s = 0x0123 ∧
    decodeWord 0x0123 = .error (.unknown 0x0123) ∧ s.strict = false :=
  ⟨start 0x0123, ready_start _, by decide, by decide, rfl⟩
theorem witness_UnknownWordIsNoOp_strict : ∃ s : State, ReadyToExecute s ∧ wordAtPc s = 0x00FF ∧
    decodeWord 0x00FF = .error (.unknown 0x00FF) ∧ s.strict = true :=
  ⟨{ start 0x00FF with strict := true }, ready_start 0x00FF, by decide, by decide, rfl⟩
theorem witness_GuardsChangeNothing_not_loaded : State.reset.loaded = false := rfl
theorem witness_GuardsChangeNothing_halted : ∃ (s : State) (f : FaultRecord), s.loaded = true ∧
    s.fault = some f := ⟨after (start 0x00EE), failed .stackUnderflow 0x00EE, by decide, by decide⟩
/-- Waiting, with the least key the first and the last of the scan. -/
theorem witness_KeyWaitResumes_first : ∃ (s : State) (keys : Keys), s.loaded = true ∧ s.fault = none ∧
    s.kw = .waiting 3 ∧ keys.getLsbD (0 : Nibble).toNat = true ∧
    ∀ k < (0 : Nibble).toNat, keys.getLsbD k = false :=
  ⟨{ start 0 with kw := .waiting 3 }, 0xFFFF, rfl, rfl, rfl, by decide, by decide⟩
theorem witness_KeyWaitResumes_last : ∃ (s : State) (keys : Keys), s.loaded = true ∧ s.fault = none ∧
    s.kw = .waiting 3 ∧ keys.getLsbD (15 : Nibble).toNat = true ∧
    ∀ k < (15 : Nibble).toNat, keys.getLsbD k = false :=
  ⟨{ start 0 with kw := .waiting 3 }, 0x8000, rfl, rfl, rfl, by decide, by decide⟩
theorem witness_KeyWaitIdles : ∃ (s : State) (keys : Keys), s.loaded = true ∧ s.fault = none ∧
    s.kw = .waiting 3 ∧ ∀ k < 16, keys.getLsbD k = false :=
  ⟨{ start 0 with kw := .waiting 3 }, 0, rfl, rfl, rfl, by decide⟩
theorem witness_FetchFaultsPastMemory : ∃ s : State, s.loaded = true ∧ s.fault = none ∧
    s.kw = .notWaiting ∧ 4095 ≤ s.pc.toNat ∧ s.pc.toNat = 4095 :=
  ⟨{ start 0 with pc := 0xFFF }, rfl, rfl, rfl, by decide, by decide⟩
theorem witness_FaultingStep : ∃ (s t : State) (f : FaultRecord), s.fault = none ∧
    stepWith 0 0 s = .next t ∧ t.fault = some f :=
  ⟨start 0x00EE, after (start 0x00EE), failed .stackUnderflow 0x00EE, rfl, rfl, by decide⟩
theorem witness_FaultLatchIsPermanent : ∃ (s : State) (f : FaultRecord) (inputs : List (Keys × Byte)),
    s.loaded = true ∧ s.fault = some f ∧ inputs ≠ [] :=
  ⟨after (start 0x00EE), failed .stackUnderflow 0x00EE, [(0, 0), (1, 1)], by decide, by decide, by decide⟩
theorem witness_KeyWaitLatchWriters_set : ∃ s t : State, stepWith 0 0 s = .next t ∧ t.kw ≠ s.kw :=
  ⟨start 0xF30A, after (start 0xF30A), rfl, by decide⟩
theorem witness_KeyWaitLatchWriters_cleared : ∃ s t : State, stepWith 0x8000 0 s = .next t ∧
    t.kw ≠ s.kw :=
  ⟨{ start 0 with kw := .waiting 3 }, after { start 0 with kw := .waiting 3 } 0x8000, rfl, by decide⟩
theorem witness_TimersTick_executed : ∃ s t : State, stepWith 0 0 s = .next t ∧
    t.result = some (.executed 0xF315 false) := ⟨start 0xF315, after (start 0xF315), rfl, by decide⟩
theorem witness_TimersTick_other : ∃ s t : State, stepWith 0 0 s = .next t ∧
    ∀ op w, t.result ≠ some (.executed op w) :=
  ⟨State.reset, after State.reset, rfl, fun _ _ h => by cases h⟩
theorem inv_start (op : Word) (h : Memory.wf (start op).mem = true) : (start op).Inv :=
  ⟨h, Nat.zero_le 16, fun _ hw => (by cases hw), Nat.zero_le 0x0FFF, show 0x200 ≤ 0x10FE by decide,
    fun _ hf => (by cases hf)⟩
theorem witness_StepKeepsInvariant : ∃ s t : State, s.Inv ∧ stepWith 0 0 s = .next t :=
  ⟨start 0xFF55, after (start 0xFF55), inv_start _ (by decide), rfl⟩

/-- Writers: a flag instruction with VF as a bystander, and one that writes neither VF nor the register. -/
theorem witness_VfWriters_flag : ∃ s t : State, exec (.addReg 1 2) s = .next t ∧
    writesFlag (.addReg 1 2) = true ∧ t.result = some (.executed (encode (.addReg 1 2)) false) :=
  ⟨start 0, did (.addReg 1 2) (start 0), rfl, rfl, by decide⟩
theorem witness_VfWriters_other : ∃ s t : State, exec (.or 1 2) s = .next t ∧
    writesFlag (.or 1 2) = false ∧ namesDest (.or 1 2) 15 = false :=
  ⟨start 0, did (.or 1 2) (start 0), rfl, rfl, by decide⟩
theorem witness_RegisterWriters : ∃ (s t : State) (k : Nibble), exec (.addReg 1 2) s = .next t ∧
    namesDest (.addReg 1 2) k = false ∧ (writesFlag (.addReg 1 2) = true → k ≠ 15) :=
  ⟨start 0, did (.addReg 1 2) (start 0), 3, rfl, by decide, fun _ => by decide⟩
theorem witness_MemoryWriters_ld_b : ∃ s t : State, exec (.ldB 0) s = .next t ∧
    Memory.read t.mem 0 ≠ Memory.read s.mem 0 := ⟨start 0, did (.ldB 0) (start 0), rfl, by decide⟩
theorem witness_MemoryWriters_block : ∃ s t : State, exec (.ldMemVx 15) s = .next t ∧
    Memory.read t.mem 15 ≠ Memory.read s.mem 15 :=
  ⟨start 0, did (.ldMemVx 15) (start 0), rfl, by decide⟩
theorem witness_PictureWriters : ∃ s t : State, exec (.drw 0 0 5) s = .next t ∧ t.fb ≠ s.fb :=
  ⟨start 0, did (.drw 0 0 5) (start 0), rfl, by decide⟩
theorem witness_StackWriters : ∃ s t : State, exec (.call 0x300) s = .next t ∧ t.stack ≠ s.stack :=
  ⟨start 0, did (.call 0x300) (start 0), rfl, by decide⟩
theorem witness_IndexWriters : ∃ s t : State, exec (.ldI 0x300) s = .next t ∧ t.i ≠ s.i :=
  ⟨start 0, did (.ldI 0x300) (start 0), rfl, by decide⟩
theorem witness_RandomByte : ∃ s t t' : State, (∀ x kk, decodeWord (wordAtPc s) ≠ .ok (.rnd x kk)) ∧
    stepWith 0 0 s = .next t ∧ stepWith 0 1 s = .next t' := by
  refine ⟨start 0x6123, after (start 0x6123), after (start 0x6123) 0 1, fun x kk h => ?_, rfl, rfl⟩
  have hd : decodeWord (wordAtPc (start 0x6123)) = .ok (.ldImm 1 0x23) := by decide
  rw [hd] at h
  cases h
theorem witness_EndedRun_jump : ∃ s t : State, stepWith 0 0 s = .next t ∧ endsRun s t = true :=
  ⟨start 0x1200, after (start 0x1200), rfl, by decide⟩
theorem witness_EndedRun_fault : ∃ s t : State, stepWith 0 0 s = .next t ∧ endsRun s t = true :=
  ⟨start 0x00EE, after (start 0x00EE), rfl, by decide⟩

/-- Call stack and load. -/
theorem witness_PushAndPop : (deep 15).length < 16 ∧ 16 ≤ (deep 16).length ∧ (deep 0) = [] := by decide
theorem witness_CallThenRetReturns : ∃ s : State, s.stack.length < 16 ∧ s.stack.length = 15 :=
  ⟨{ start 0 with stack := deep 15 }, by decide⟩
theorem witness_LoadPlacesImage : ∃ rom : Image, rom.length ≤ 3584 ∧ rom.length = 3584 :=
  ⟨List.replicate 3584 0xFF, by rw [List.length_replicate]; decide⟩
theorem witness_LoadTooLarge : ∃ rom : Image, 3584 < rom.length ∧ rom.length = 3585 :=
  ⟨List.replicate 3585 0, by rw [List.length_replicate]; decide⟩

end Sys2Proof.Tests
end

section
/-! What an executed instruction and a step leave behind, as equations: the state an instruction's writes
leave, the PC it commits, when it raises no fault, and the transitions of a step. -/

namespace Sys2Proof.Machine

/-- `i` raises no fault in `s`: its stack operation, memory access or key index passes its check
(R32, R33, R63, R250, R251). -/
def NoFault (i : Instr) (s : State) : Prop :=
  match i with
  | .ret _ => s.stack ≠ []
  | .call _ => s.stack.length < 16
  | .drw _ _ n => n.toNat = 0 ∨ s.i.toNat + n.toNat ≤ 4096
  | .skp x | .sknp x => (s.reg x).toNat ≤ 15
  | .ldB _ => s.i.toNat + 3 ≤ 4096
  | .ldMemVx x | .ldVxMem x => s.i.toNat + x.toNat < 4096
  | _ => True

/-- What the writes of `i` make of `s`, before PC, the timers and the result are committed. -/
def written (i : Instr) (s : State) : State :=
  match i with
  | .cls _ => s.setFb Frame.blank
  | .ret _ => s.setStack s.stack.tail
  | .call _ => s.setStack (s.nextPc :: s.stack)
  | .ldImm x kk => s.setReg x kk
  | .addImm x kk => s.setReg x (addBytes (s.reg x) kk)
  | .ldReg x y => s.setReg x (s.reg y)
  | .or x y => s.setReg x (s.reg x ||| s.reg y)
  | .and x y => s.setReg x (s.reg x &&& s.reg y)
  | .xor x y => s.setReg x (s.reg x ^^^ s.reg y)
  | .addReg x y => s.setRegFlag x (addBytes (s.reg x) (s.reg y)) (carryFlag (s.reg x) (s.reg y))
  | .sub x y => s.setRegFlag x (subBytes (s.reg x) (s.reg y)) (notBorrowFlag (s.reg x) (s.reg y))
  | .shr x y => s.setRegFlag x (shiftRight (s.reg x)) (shiftedOutRight (s.reg y))
  | .subn x y => s.setRegFlag x (subBytes (s.reg y) (s.reg x)) (notBorrowFlag (s.reg y) (s.reg x))
  | .shl x y => s.setRegFlag x (shiftLeft (s.reg x)) (shiftedOutLeft (s.reg y))
  | .ldI nnn => s.setI (zext nnn)
  | .rnd x kk => s.setReg x (s.rnd &&& kk)
  | .drw x y n =>
    (s.setFb (spriteCanvas s x y n).fb).setVF (flagByte (spriteCanvas s x y n).col)
  | .ldVxDt x => s.setReg x s.dt
  | .ldVxK x => s.setKw (.waiting x)
  | .ldDtVx x => s.setDT (s.reg x)
  | .ldStVx x => s.setST (s.reg x)
  | .addI x =>
    (s.setI (BitVec.ofNat 16 (indexSum s.i (s.reg x) % 4096))).setVF (indexOverflowFlag s.i (s.reg x))
  | .ldF x => s.setI (glyphAddr (s.reg x))
  | .ldB x => s.setMem (Memory.writeBytes s.mem s.i.toNat (bcdDigits (s.reg x)))
  | .ldMemVx x =>
    (s.setMem (Memory.writeBytes s.mem s.i.toNat (s.regsUpTo x))).setI (s.advancedI x)
  | .ldVxMem x =>
    (s.fillRegs (Memory.readBytes s.mem s.i.toNat (x.toNat + 1))).setI (s.advancedI x)
  | .jp _ | .seImm _ _ | .sneImm _ _ | .seReg _ _ _ | .sneReg _ _ _ | .jpV0 _ | .skp _ | .sknp _ => s

/-- The PC that `i` commits when it completes in `s` (R131). -/
def target (i : Instr) (s : State) : Word :=
  match i with
  | .ret _ => s.stack.headD 0
  | .jp nnn | .call nnn => zext nnn
  | .seImm x kk => s.skipPc (s.reg x == kk)
  | .sneImm x kk => s.skipPc (s.reg x != kk)
  | .seReg x y _ => s.skipPc (s.reg x == s.reg y)
  | .sneReg x y _ => s.skipPc (s.reg x != s.reg y)
  | .jpV0 nnn => s.offsetTarget nnn
  | .skp x => s.skipPc (keyDown s.keys (s.reg x).toNat)
  | .sknp x => s.skipPc (!keyDown s.keys (s.reg x).toNat)
  | _ => s.nextPc

/-- An instruction that raises no fault commits its writes and its target; any other leaves the state it
started in but for the latch and the result (R130, R302). -/
theorem exec_written_or_fail (i : Instr) (s : State) :
    (NoFault i s ∧ ∃ w, exec i s = .next ((written i s).retire (encode i) w (target i s))) ∨
      ∃ c, exec i s = .next (s.fail (recordAt s c (some (encode i)))) := by
  cases i
  case ret u =>
    obtain ⟨w, rest, hs, h⟩ | ⟨-, h⟩ := execRet_cases u s
    · exact .inl ⟨by simp [NoFault, hs], _, by rw [written, target, hs]; exact h⟩
    · exact .inr ⟨_, h⟩
  case call nnn =>
    obtain ⟨hs, h⟩ | ⟨-, h⟩ := execCall_cases nnn s
    · exact .inl ⟨hs, _, h⟩
    · exact .inr ⟨_, h⟩
  case drw x y n =>
    obtain ⟨hs, h⟩ | ⟨-, h⟩ := execDrw_cases x y n s
    · exact .inl ⟨hs, _, h⟩
    · exact .inr ⟨_, h⟩
  case skp x =>
    obtain ⟨hs, h⟩ | ⟨-, h⟩ := execSkp_cases x s
    · exact .inl ⟨hs, _, h⟩
    · exact .inr ⟨_, h⟩
  case sknp x =>
    obtain ⟨hs, h⟩ | ⟨-, h⟩ := execSknp_cases x s
    · exact .inl ⟨hs, _, h⟩
    · exact .inr ⟨_, h⟩
  case ldB x =>
    obtain ⟨hs, h⟩ | ⟨-, h⟩ := execLdB_cases x s
    · exact .inl ⟨hs, _, h⟩
    · exact .inr ⟨_, h⟩
  case ldMemVx x =>
    obtain ⟨hs, h⟩ | ⟨-, h⟩ := execLdMemVx_cases x s
    · exact .inl ⟨hs, _, h⟩
    · exact .inr ⟨_, h⟩
  case ldVxMem x =>
    obtain ⟨hs, h⟩ | ⟨-, h⟩ := execLdVxMem_cases x s
    · exact .inl ⟨hs, _, h⟩
    · exact .inr ⟨_, h⟩
  all_goals exact .inl ⟨trivial, _, rfl⟩

/-- The two states an instruction can end in. -/
theorem exec_next {i : Instr} {s t : State} (h : exec i s = .next t) :
    (NoFault i s ∧ ∃ w, t = (written i s).retire (encode i) w (target i s)) ∨
      ∃ c, t = s.fail (recordAt s c (some (encode i))) := by
  obtain ⟨hok, w, he⟩ | ⟨c, he⟩ := exec_written_or_fail i s <;>
    obtain rfl := Host.Outcome.next.inj (h.symm.trans he)
  · exact .inl ⟨hok, w, rfl⟩
  · exact .inr ⟨c, rfl⟩

/-! ### What the writes of an instruction reach -/

section
variable (i : Instr) (s : State)

@[simp] theorem written_fault : (written i s).fault = s.fault := by cases i <;> rfl

/-- Only Fx0A writes the key-wait latch (R36). -/
theorem written_kw :
    (written i s).kw = s.kw ∨ ∃ x, i = .ldVxK x ∧ (written i s).kw = .waiting x := by
  cases i
  case ldVxK x => exact .inr ⟨x, rfl, rfl⟩
  all_goals exact .inl rfl

/-- Only CLS and DRW write the picture (R35). -/
theorem written_fb :
    (written i s).fb = s.fb ∨ (∃ u, i = .cls u) ∨ ∃ x y n, i = .drw x y n := by
  cases i
  case cls u => exact .inr (.inl ⟨u, rfl⟩)
  case drw x y n => exact .inr (.inr ⟨x, y, n, rfl⟩)
  all_goals exact .inl rfl

/-- Only CALL and RET write the call stack: one entry on top, or the top entry gone (R31). -/
theorem written_stack (hok : NoFault i s) :
    (written i s).stack = s.stack ∨
      (∃ nnn, i = .call nnn ∧ s.stack.length < 16 ∧ (written i s).stack = s.nextPc :: s.stack) ∨
      ∃ u w, i = .ret u ∧ s.stack = w :: (written i s).stack := by
  cases i
  case call nnn => exact .inr (.inl ⟨nnn, rfl, hok, rfl⟩)
  case ret u =>
    obtain ⟨w, rest, hs⟩ := List.exists_cons_of_ne_nil hok
    exact .inr (.inr ⟨u, w, rfl, by simp [written, hs]⟩)
  all_goals exact .inl rfl

/-- Only the five writers of R25 write I. -/
theorem written_i (h : writesIndex i = false) : (written i s).i = s.i := by
  cases i
  case ldI | addI | ldF | ldMemVx | ldVxMem => cases h
  all_goals rfl

/-- Only named destinations and the VF of a flag instruction are written (R22, R23). -/
theorem written_reg (k : Nibble) (hd : namesDest i k = false) (hf : writesFlag i = true → k ≠ 15) :
    (written i s).reg k = s.reg k := by
  cases i
  case ldImm | addImm | ldReg | or | and | xor | rnd | ldVxDt =>
    exact (reg_setReg s _ k _).trans (if_neg (beq_eq_false_iff_ne.mp hd))
  case addReg | sub | shr | subn | shl =>
    exact (reg_setRegFlag s _ k _ _).trans
      ((if_neg (hf rfl)).trans (if_neg (beq_eq_false_iff_ne.mp hd)))
  case drw | addI => exact (reg_setVF _ k _).trans (if_neg (hf rfl))
  case ldVxMem x =>
    have hk : ¬k.toNat ≤ x.toNat := of_decide_eq_false hd
    exact (reg_fillRegs s _ k).trans (if_neg (by rw [Memory.length_readBytes]; omega))
  all_goals rfl

/-- A flag instruction leaves a flag in VF, even when VF is its destination (R23, R186). -/
theorem written_vf_of_writesFlag (h : writesFlag i = true) :
    ∃ b, (written i s).reg 15 = flagByte b := by
  cases i
  case addReg | sub | shr | subn | shl => exact ⟨_, (reg_setRegFlag s _ 15 _ _).trans (if_pos rfl)⟩
  case drw | addI => exact ⟨_, (reg_setVF _ 15 _).trans (if_pos rfl)⟩
  all_goals cases h

end

theorem flagByte_eq_zero_or_one (b : Bool) : flagByte b = 0 ∨ flagByte b = 1 := by
  cases b
  · exact .inl rfl
  · exact .inr rfl

/-! ### The transitions of a step -/

/-- The state a step executes in: this step's keys and random byte latched (R120, R122). -/
def State.latched (s : State) (keys : Keys) (rnd : Byte) : State :=
  (s.latchKeys keys).latchRnd rnd

/-- The transitions of a step (R121 to R139), one constructor for each way it can end; which
fault is raised, and with which word, is left open. -/
inductive Transition (keys : Keys) (rnd : Byte) (s : State) : State → Prop
  | notLoaded (hl : s.loaded = false) : Transition keys rnd s (s.report .notLoaded)
  | halted (f : FaultRecord) (hl : s.loaded = true) (hf : s.fault = some f) :
    Transition keys rnd s (s.report (.halted f))
  | idle (r : Nibble) (hl : s.loaded = true) (hf : s.fault = none) (hw : s.kw = .waiting r)
    (hnone : ∀ j < 16, keyDown keys j = false) :
    Transition keys rnd s ((s.latchKeys keys).report .idle)
  | resumed (r k : Nibble) (hl : s.loaded = true) (hf : s.fault = none) (hw : s.kw = .waiting r)
    (hk : keyDown keys k.toNat = true) (hleast : ∀ j < k.toNat, keyDown keys j = false) :
    Transition keys rnd s
      ((((s.latchKeys keys).setReg r (k.setWidth 8)).setKw .notWaiting).report (.resumed k))
  | faulted (c : FaultCause) (op : Option Word) (hl : s.loaded = true) (hf : s.fault = none)
    (hw : s.kw = .notWaiting) : Transition keys rnd s (s.faulted (recordAt s c op))
  | unknown (e : Reject) (hr : ReadyToExecute s) (hd : decodeWord (wordAtPc s) = .error e)
    (hs : s.strict = false) :
    Transition keys rnd s ((s.latched keys rnd).retire (wordAtPc s) false s.nextPc)
  | executed (i : Instr) (w : Bool) (hr : ReadyToExecute s) (hd : decodeWord (wordAtPc s) = .ok i)
    (hok : NoFault i (s.latched keys rnd)) :
    Transition keys rnd s ((written i (s.latched keys rnd)).retire (encode i) w
      (target i (s.latched keys rnd)))

/-- An executed step that raised no fault keeps its working copy. -/
theorem commit_of_no_fault (s : State) {o : Outcome} {t : State} (h : o = .next t)
    (hf : t.fault = none) : s.commit o = .next t := by
  rw [h, commit_next, hf]

/-- An executed step that raised a fault discards its working copy (R302). -/
theorem commit_of_fail (s : State) {o : Outcome} {t : State} {f : FaultRecord}
    (h : o = .next (t.fail f)) : s.commit o = .next (s.faulted f) := by
  rw [h]
  rfl

/-- A step that gets past the fetch executes the word at PC or takes the fault that word raises. -/
theorem transition_of_ready (keys : Keys) (rnd : Byte) (s : State) (hr : ReadyToExecute s) :
    ∃ t, s.commit (execWord (wordAtPc s) (s.latched keys rnd)) = .next t ∧
      Transition keys rnd s t := by
  obtain ⟨hl, hf, hw, -⟩ := id hr
  have hkept : ∀ i, (written i (s.latched keys rnd)).fault = none :=
    fun i => (written_fault i _).trans hf
  cases hd : decodeWord (wordAtPc s) with
  | ok i =>
    rw [show execWord (wordAtPc s) (s.latched keys rnd) = exec i _ by rw [execWord, hd]]
    obtain ⟨hok, w, h⟩ | ⟨c, h⟩ := exec_written_or_fail i (s.latched keys rnd)
    · exact ⟨_, commit_of_no_fault s h (hkept i), .executed i w hr hd hok⟩
    · exact ⟨_, commit_of_fail s h, .faulted c (some (encode i)) hl hf hw⟩
  | error e =>
    rw [show execWord (wordAtPc s) (s.latched keys rnd) = execUnknown (wordAtPc s) _ by
      rw [execWord, hd]]
    obtain ⟨hs, h⟩ | ⟨-, h⟩ := execUnknown_cases (wordAtPc s) (s.latched keys rnd)
    · exact ⟨_, commit_of_no_fault s h hf, .unknown e hr hd hs⟩
    · exact ⟨_, commit_of_fail s h, .faulted .unknownOpcode (some (wordAtPc s)) hl hf hw⟩

/-- Every step is one of the transitions. -/
theorem stepWith_transition (keys : Keys) (rnd : Byte) (s : State) :
    ∃ t, stepWith keys rnd s = .next t ∧ Transition keys rnd s t := by
  obtain ⟨hl, h⟩ | ⟨hl, f, hf, h⟩ | ⟨hl, hf, r, hw, h⟩ | ⟨hl, hf, hw, -, h⟩ | ⟨hl, hf, hw, hp, h⟩ :=
    stepWith_cases keys rnd s
  · exact ⟨_, h, .notLoaded hl⟩
  · exact ⟨_, h, .halted f hl hf⟩
  · obtain ⟨hnone, hwait⟩ | ⟨k, hk, hleast, hwait⟩ := waitStep_cases (s.latchKeys keys) r
    · exact ⟨_, hwait ▸ h, .idle r hl hf hw hnone⟩
    · exact ⟨_, hwait ▸ h, .resumed r k hl hf hw hk hleast⟩
  · exact ⟨_, h, .faulted _ none hl hf hw⟩
  · obtain ⟨t, ht, htr⟩ := transition_of_ready keys rnd s ⟨hl, hf, hw, hp⟩
    exact ⟨t, h.trans ht, htr⟩

theorem transition_of_stepWith {keys : Keys} {rnd : Byte} {s t : State}
    (h : stepWith keys rnd s = .next t) : Transition keys rnd s t := by
  obtain ⟨t', h', htr⟩ := stepWith_transition keys rnd s
  exact Host.Outcome.next.inj (h'.symm.trans h) ▸ htr

end Sys2Proof.Machine
end

section
/-! The invariant of the machine: it holds after construction and every step keeps it (R28, R31, R44,
R303). -/

namespace Sys2Proof.Machine

/-- The invariant speaks of six fields only. -/
theorem State.Inv.of_same_fields {s t : State} (h : s.Inv) (hm : t.mem = s.mem)
    (hs : t.stack = s.stack) (hi : t.i = s.i) (hp : t.pc = s.pc) (hf : t.fault = s.fault)
    (hw : t.kw = s.kw) : t.Inv where
  mem_canonical := hm ▸ h.mem_canonical
  stack_bounded := hs ▸ h.stack_bounded
  stack_entries := hs ▸ h.stack_entries
  index_bounded := hi ▸ h.index_bounded
  pc_bounded := hp ▸ h.pc_bounded
  fault_precise := by rw [hf, hp, hw]; exact h.fault_precise

/-- A fault recorded at the PC of a core that is not waiting keeps the invariant (R303). -/
theorem State.Inv.faulted {s : State} (h : s.Inv) (hw : s.kw = .notWaiting) (c : FaultCause)
    (op : Option Word) : (s.faulted (recordAt s c op)).Inv where
  mem_canonical := h.mem_canonical
  stack_bounded := h.stack_bounded
  stack_entries := h.stack_entries
  index_bounded := h.index_bounded
  pc_bounded := h.pc_bounded
  fault_precise f hf := by
    obtain rfl := Option.some.inj hf
    exact ⟨rfl, hw⟩

/-! ### Bounds of the values a step commits -/

theorem toNat_zext_le (nnn : Addr) : (zext nnn).toNat ≤ 0x0FFF := by
  rw [zext, BitVec.toNat_setWidth]
  omega

theorem toNat_nextPc_le {s : State} (hp : s.pc.toNat + 1 < 4096) : s.nextPc.toNat ≤ 0x1000 := by
  rw [State.nextPc]
  bv_omega

theorem toNat_skipPc_le {s : State} (hp : s.pc.toNat + 1 < 4096) (c : Bool) :
    (s.skipPc c).toNat ≤ 0x10FE := by
  have hnext := toNat_nextPc_le hp
  cases c
  · exact hnext.trans (by decide)
  · rw [State.skipPc, if_pos rfl]
    bv_omega

theorem toNat_offsetTarget_le (s : State) (nnn : Addr) : (s.offsetTarget nnn).toNat ≤ 0x10FE := by
  have hz := toNat_zext_le nnn
  have hv : ((s.reg 0).setWidth 16).toNat ≤ 255 := by
    rw [BitVec.toNat_setWidth]
    omega
  rw [State.offsetTarget]
  bv_omega

theorem toNat_advancedI_le (s : State) (x : Nibble) : (s.advancedI x).toNat ≤ 0x0FFF := by
  rw [State.advancedI, BitVec.toNat_ofNat]
  omega

theorem toNat_glyphAddr_le (b : Byte) : (glyphAddr b).toNat ≤ 0x0FFF := by
  have hb := b.isLt
  rw [glyphAddr, BitVec.toNat_ofNat]
  exact (Nat.mod_le _ _).trans (by omega)

section
variable {i : Instr} {s : State}

/-- A completing instruction keeps memory in its canonical form: Fx33 and Fx55 write inside it (R63). -/
theorem written_mem_wf (hok : NoFault i s) (h : s.Inv) : Memory.wf (written i s).mem = true := by
  cases i
  case ldB x => exact Memory.wf_writeBytes _ _ _ hok h.mem_canonical
  case ldMemVx x =>
    have hfits : s.i.toNat + x.toNat < 4096 := hok
    exact Memory.wf_writeBytes _ _ _ (by rw [length_regsUpTo]; exact hfits) h.mem_canonical
  all_goals exact h.mem_canonical

/-- A completing instruction leaves I in 12 bits (R44). -/
theorem written_i_le (h : s.Inv) : (written i s).i.toNat ≤ 0x0FFF := by
  cases i
  case ldI nnn => exact toNat_zext_le nnn
  case addI x =>
    change (BitVec.ofNat 16 (indexSum s.i (s.reg x) % 4096)).toNat ≤ 0x0FFF
    rw [BitVec.toNat_ofNat]
    omega
  case ldF x => exact toNat_glyphAddr_le (s.reg x)
  case ldMemVx x | ldVxMem x => exact toNat_advancedI_le s x
  all_goals exact h.index_bounded

/-- A completing instruction leaves at most 16 return addresses, each one a CALL can push (R31). -/
theorem written_stack_bounds (hok : NoFault i s) (h : s.Inv) (hp : s.pc.toNat + 1 < 4096) :
    (written i s).stack.length ≤ 16 ∧ ∀ w ∈ (written i s).stack, w.toNat ≤ 0x1000 := by
  have hlen := h.stack_bounded
  have hall := h.stack_entries
  obtain hs | ⟨nnn, -, hlt, hs⟩ | ⟨u, w, -, hs⟩ := written_stack i s hok
  · exact hs ▸ ⟨hlen, hall⟩
  · exact hs ▸ ⟨hlt, List.forall_mem_cons.mpr ⟨toNat_nextPc_le hp, hall⟩⟩
  · rw [hs] at hlen hall
    exact ⟨(Nat.le_succ _).trans hlen, (List.forall_mem_cons.mp hall).2⟩

/-- The PC a completing instruction commits is at most 0x10FE, the reach of JP V0 (R28). -/
theorem target_le (hok : NoFault i s) (h : s.Inv) (hp : s.pc.toNat + 1 < 4096) :
    (target i s).toNat ≤ 0x10FE := by
  cases i
  case ret u =>
    obtain ⟨w, rest, hs⟩ := List.exists_cons_of_ne_nil hok
    have hw := h.stack_entries w (by simp [hs])
    simp only [target, hs, List.headD_cons]
    omega
  case jp nnn | call nnn => exact (toNat_zext_le nnn).trans (by decide)
  case jpV0 nnn => exact toNat_offsetTarget_le s nnn
  case seImm | sneImm | seReg | sneReg | skp | sknp => exact toNat_skipPc_le hp _
  all_goals exact (toNat_nextPc_le hp).trans (by decide)

/-- A completing instruction keeps the invariant of a core with no fault latched. -/
theorem written_retire_inv (hok : NoFault i s) (h : s.Inv) (hf : s.fault = none)
    (hp : s.pc.toNat + 1 < 4096) (op : Word) (w : Bool) :
    ((written i s).retire op w (target i s)).Inv where
  mem_canonical := written_mem_wf hok h
  stack_bounded := (written_stack_bounds hok h hp).1
  stack_entries := (written_stack_bounds hok h hp).2
  index_bounded := written_i_le h
  pc_bounded := target_le hok h hp
  fault_precise := by simp [hf]

end

/-- An unknown word that is a no-op keeps the invariant (R98). -/
theorem noOp_inv {s : State} (h : s.Inv) (hf : s.fault = none) (hp : s.pc.toNat + 1 < 4096)
    (op : Word) : (s.retire op false s.nextPc).Inv where
  mem_canonical := h.mem_canonical
  stack_bounded := h.stack_bounded
  stack_entries := h.stack_entries
  index_bounded := h.index_bounded
  pc_bounded := (toNat_nextPc_le hp).trans (by decide)
  fault_precise := by simp [hf]

theorem transition_keeps_inv {keys : Keys} {rnd : Byte} {s t : State} (h : s.Inv)
    (htr : Transition keys rnd s t) : t.Inv := by
  have hlatched : (s.latched keys rnd).Inv := h.of_same_fields rfl rfl rfl rfl rfl rfl
  cases htr with
  | notLoaded hl => exact h.of_same_fields rfl rfl rfl rfl rfl rfl
  | halted f hl hf => exact h.of_same_fields rfl rfl rfl rfl rfl rfl
  | idle r hl hf hw hnone => exact h.of_same_fields rfl rfl rfl rfl rfl rfl
  | resumed r k hl hf hw hk hleast =>
    exact { h with fault_precise := fun f hf' => absurd (hf.symm.trans hf') nofun }
  | faulted c op hl hf hw => exact h.faulted hw c op
  | unknown e hr hd hs =>
    obtain ⟨-, hf, -, hp⟩ := hr
    exact noOp_inv hlatched hf hp _
  | executed i w hr hd hok =>
    obtain ⟨-, hf, -, hp⟩ := hr
    exact written_retire_inv hok hlatched hf hp _ _

/-- Settles O46: every transition keeps the invariant, and the host's step is one of them. -/
theorem stepKeepsInvariant : Obligations.StepKeepsInvariant := by
  unfold Obligations.StepKeepsInvariant
  rintro s t h (hstep | ⟨keys, rnd, hstep⟩)
  · exact transition_keeps_inv h (transition_of_stepWith hstep)
  · exact transition_keeps_inv h (transition_of_stepWith hstep)

/-- Settles O47: memory lists nothing, the stack is empty, I is 0 and PC 0x200. -/
theorem resetMeetsInvariant : Obligations.ResetMeetsInvariant where
  mem_canonical := Memory.wf_reset
  stack_bounded := Nat.zero_le _
  stack_entries := List.forall_mem_nil _
  index_bounded := Nat.zero_le _
  pc_bounded := show 0x200 ≤ 0x10FE by decide
  fault_precise := nofun

end Sys2Proof.Machine
end

section
/-! Which instructions and steps write which element (R22 to R36). -/

namespace Sys2Proof.Machine

/-- Settles O44, by the transitions of a step: only an executed Fx0A and a resumed wait change the latch. -/
theorem keyWaitLatchWriters : Obligations.KeyWaitLatchWriters := by
  unfold Obligations.KeyWaitLatchWriters
  refine ⟨fun keys rnd s t hstep hne => ?_, fun rom s => ?_, rfl⟩
  · cases transition_of_stepWith hstep with
    | resumed r k hl hf hw hk hleast => exact .inr ⟨r, hw, rfl, k.toNat, k.isLt, hk⟩
    | executed i w hr hd hok =>
      obtain ⟨-, -, hw, -⟩ := hr
      obtain hkw | ⟨x, rfl, hkw⟩ := written_kw i (s.latched keys rnd)
      · exact absurd hkw hne
      · exact .inl ⟨x, hw, hkw, hd⟩
    | notLoaded | halted | idle | faulted | unknown => exact absurd rfl hne
  · unfold loadProgram
    split <;> rfl

/-- Settles O50: a fault writes no register, and the writes of a completing instruction only those named. -/
theorem registerWriters : Obligations.RegisterWriters := by
  unfold Obligations.RegisterWriters
  intro i s t k h hd hf
  obtain ⟨-, w, rfl⟩ | ⟨c, rfl⟩ := exec_next h
  · exact written_reg i s k hd hf
  · rfl

/-- Settles O49: a flag instruction that completes leaves a flag; the rest is the register frame at VF. -/
theorem vfWriters : Obligations.VfWriters := by
  unfold Obligations.VfWriters
  refine fun i s t h => ⟨fun hflag hres => ?_, fun hflag hd => ?_⟩
  · obtain ⟨-, w, rfl⟩ | ⟨c, rfl⟩ := exec_next h
    · obtain ⟨b, hb⟩ := written_vf_of_writesFlag i s hflag
      rw [State.retire_reg, hb]
      exact flagByte_eq_zero_or_one b
    · simp at hres
  · exact registerWriters i s t 15 h hd (by simp [hflag])

/-- Settles O52: a fault writes none of the three, and a completing instruction only its own. -/
theorem pictureStackIndexWriters : Obligations.PictureStackIndexWriters := by
  unfold Obligations.PictureStackIndexWriters
  intro i s t h
  obtain ⟨hok, w, rfl⟩ | ⟨c, rfl⟩ := exec_next h
  · refine ⟨(written_fb i s).resolve_left, fun hne => ?_, fun hne => ?_⟩
    · obtain ⟨nnn, hi, -, hs⟩ | hret := (written_stack i s hok).resolve_left hne
      · exact .inl ⟨nnn, hi, hs⟩
      · exact .inr hret
    · by_contra hi
      exact hne (written_i i s (Bool.eq_false_iff.mpr hi))
  · exact ⟨absurd rfl, absurd rfl, absurd rfl⟩

end Sys2Proof.Machine
end

section
/-! The call stack's operations, construction and load (R32, R33, R41, R42). -/

namespace Sys2Proof.Machine

/-- Settles O56, by the cases of push; the state pushed has a top entry to pop. -/
theorem pushAndPop : Obligations.PushAndPop := by
  unfold Obligations.PushAndPop
  intro s w
  obtain ⟨hpush, hlt⟩ | ⟨hpush, hge⟩ := push_cases s w
  · exact ⟨fun _ => ⟨_, hpush, rfl, rfl⟩, fun hge => by omega, fun hs => by rw [State.pop, hs]⟩
  · exact ⟨fun hlt => by omega, fun _ => hpush, fun hs => by rw [State.pop, hs]⟩

theorem initByte_of_le {a : Nat} (h : 80 ≤ a) : Memory.initByte a = 0 :=
  List.getD_eq_default fontBytes 0 h

/-- Settles O58: registers and pixels are replicated zeros, and the font is read glyph by glyph. -/
theorem constructionState : Obligations.ConstructionState := by
  unfold Obligations.ConstructionState
  refine ⟨fun k => ?_, rfl, rfl, rfl, rfl, rfl, pixel_blank, rfl, fun k _ => BitVec.getLsbD_zero,
    rfl, rfl, fun a h => initByte_of_le h, ?_⟩
  · exact Vector.getElem_replicate k.isLt
  · decide

/-- Settles O59: the image is written over the construction memory, everything else is the construction
value. -/
theorem loadPlacesImage : Obligations.LoadPlacesImage := by
  unfold Obligations.LoadPlacesImage
  intro rom s hlen
  have hfits : rom.fits = true := decide_eq_true hlen
  rw [loadProgram, if_pos hfits]
  refine ⟨_, rfl, rfl, fun a => ?_, rfl, rfl, rfl, rfl, rfl, rfl, rfl, rfl, rfl, rfl⟩
  exact Memory.read_writeBytes rom State.reset.mem 512 a

end Sys2Proof.Machine
end

section
/-! Which instructions write memory (R60). -/

namespace Sys2Proof.Machine

/-- A byte that a write of `bs` from `a` changes is one of its bytes. -/
theorem Memory.bounds_of_read_writeBytes_ne {bs : List Byte} {m : Memory} {a k : Nat}
    (h : Memory.read (Memory.writeBytes m a bs) k ≠ Memory.read m k) :
    a ≤ k ∧ k < a + bs.length := by
  by_contra hout
  exact h (Memory.read_writeBytes_outside bs m a k (by omega))

/-- Only Fx33 and Fx55 write memory, and only their own range from I (R60, R213, R216). -/
theorem written_mem (i : Instr) (s : State) (a : Nat) :
    Memory.read (written i s).mem a = Memory.read s.mem a ∨
      (∃ x, i = .ldB x ∧ s.i.toNat ≤ a ∧ a ≤ s.i.toNat + 2) ∨
      ∃ x, i = .ldMemVx x ∧ s.i.toNat ≤ a ∧ a ≤ s.i.toNat + x.toNat := by
  cases i
  case ldB x =>
    refine or_iff_not_imp_left.mpr fun hne => .inl ⟨x, rfl, ?_⟩
    obtain ⟨hlo, hhi⟩ := Memory.bounds_of_read_writeBytes_ne hne
    have hlen : (bcdDigits (s.reg x)).length = 3 := rfl
    omega
  case ldMemVx x =>
    refine or_iff_not_imp_left.mpr fun hne => .inr ⟨x, rfl, ?_⟩
    obtain ⟨hlo, hhi⟩ := Memory.bounds_of_read_writeBytes_ne hne
    have hlen := length_regsUpTo s x
    omega
  all_goals exact .inl rfl

/-- Settles O51: a fault writes no byte, and a completing instruction only those of its memory frame. -/
theorem memoryWriters : Obligations.MemoryWriters := by
  unfold Obligations.MemoryWriters
  intro i s t a h hne
  obtain ⟨-, w, rfl⟩ | ⟨c, rfl⟩ := exec_next h
  · exact (written_mem i s a).resolve_left hne
  · exact absurd rfl hne

end Sys2Proof.Machine
end

section
/-! The decoder and the encoder against each other (R92 to R97): a word of each format, and what decoding
makes of every word. -/

namespace Sys2Proof

/-! ### From an instruction to its word and back -/

/-- Settles O1, by the format of the instruction's word (R92): address, byte and nibble operands are read
back from their fields, and so is the function field that the class compares. -/
theorem decodeOfEncode : Obligations.DecodeOfEncode := by
  unfold Obligations.DecodeOfEncode
  intro i
  cases i
  case jp nnn | call nnn | ldI nnn | jpV0 nnn =>
    simp [decodeWord, encode, fieldT_addr, fieldNNN_addr]
  case cls u | ret u =>
    simp [decodeWord, encode, decodeClass0, fieldT_byte, fieldX_byte, fieldKK_byte]
  case seImm x kk | sneImm x kk | ldImm x kk | addImm x kk | rnd x kk =>
    simp [decodeWord, encode, fieldT_byte, fieldX_byte, fieldKK_byte]
  case skp x | sknp x =>
    simp [decodeWord, encode, decodeClassE, fieldT_byte, fieldX_byte, fieldKK_byte]
  case ldVxDt | ldVxK | ldDtVx | ldStVx | addI | ldF | ldB | ldMemVx | ldVxMem =>
    simp [decodeWord, encode, decodeClassF, fieldT_byte, fieldX_byte, fieldKK_byte]
  case seReg x y n | sneReg x y n | drw x y n =>
    simp [decodeWord, encode, fieldT_nibbles, fieldX_nibbles, fieldY_nibbles, fieldN_nibbles]
  case ldReg | or | and | xor | addReg | sub | shr | subn | shl =>
    simp [decodeWord, encode, decodeClass8, fieldT_nibbles, fieldX_nibbles, fieldY_nibbles,
      fieldN_nibbles]

/-! ### From a word to its instruction and back -/

section
variable {op : Word} {t n : Nibble} {kk : Byte}

/-- A word is put together from its class, given as the number the decoder matches on, and its address. -/
theorem addr_word_eq (ht : (fieldT op).toNat = t.toNat) : t ++ fieldNNN op = op :=
  BitVec.eq_of_toNat_eq ht ▸ word_eq_addr op

/-- A word is put together from its class, its register and its immediate or function byte. -/
theorem byte_word_eq (ht : (fieldT op).toNat = t.toNat) (hkk : fieldKK op = kk) :
    t ++ fieldX op ++ kk = op :=
  BitVec.eq_of_toNat_eq ht ▸ hkk ▸ word_eq_byte op

/-- A word is put together from its class, its two registers and its last or function nibble. -/
theorem nibbles_word_eq (ht : (fieldT op).toNat = t.toNat) (hn : fieldN op = n) :
    t ++ fieldX op ++ fieldY op ++ n = op :=
  BitVec.eq_of_toNat_eq ht ▸ hn ▸ word_eq_nibbles op

end

/-- The unknown encodings, by class and function field (R97). -/
def UnknownWord (op : Word) : Prop :=
  ((fieldT op).toNat = 0x0 ∧ (fieldKK op).toNat ∉ [0xE0, 0xEE]) ∨
    ((fieldT op).toNat = 0x8 ∧ (fieldN op).toNat ∈ [0x8, 0x9, 0xA, 0xB, 0xC, 0xD, 0xF]) ∨
    ((fieldT op).toNat = 0xE ∧ (fieldKK op).toNat ∉ [0x9E, 0xA1]) ∨
    ((fieldT op).toNat = 0xF ∧
      (fieldKK op).toNat ∉ [0x07, 0x0A, 0x15, 0x18, 0x1E, 0x29, 0x33, 0x55, 0x65])

/-- What decoding a word can answer: an unknown encoding is reported as itself, and any other word is the
encoding of the instruction answered (R95, R97). -/
inductive Decoded (op : Word) : Except Reject Instr → Prop
  | unknown (hu : UnknownWord op) : Decoded op (.error (.unknown op))
  | known {i : Instr} (hu : ¬UnknownWord op) (he : encode i = op) : Decoded op (.ok i)

/-- The function nibbles R97 lists for class 8 are those the decoder compares with none of its own. -/
theorem class8_unknown_function_iff : ∀ n : Nibble,
    n.toNat ∈ [0x8, 0x9, 0xA, 0xB, 0xC, 0xD, 0xF] ↔
      n ∉ [0x0#4, 0x1#4, 0x2#4, 0x3#4, 0x4#4, 0x5#4, 0x6#4, 0x7#4, 0xE#4] := by
  decide

section
variable {op : Word}

theorem Decoded.ite {c : Prop} [Decidable c] {r r' : Except Reject Instr} (ht : c → Decoded op r)
    (hf : ¬c → Decoded op r') : Decoded op (if c then r else r') := by
  split
  · exact ht ‹_›
  · exact hf ‹_›

/-! In each class with a function field, a comparison that holds fixes the whole word, and the last answer is
reached by a word whose function field equals none of those compared. -/

theorem decodeClass0_decoded (ht : (fieldT op).toNat = 0x0) : Decoded op (decodeClass0 op) := by
  unfold decodeClass0
  iterate 2 refine .ite (fun h => .known (by simp [UnknownWord, ht, h]) (byte_word_eq ht h)) fun _ => ?_
  exact .unknown (.inl ⟨ht, by simp_all [BitVec.toNat_eq]⟩)

theorem decodeClass8_decoded (ht : (fieldT op).toNat = 0x8) : Decoded op (decodeClass8 op) := by
  unfold decodeClass8
  iterate 9 refine .ite (fun h => .known (by simp [UnknownWord, ht, h]) (nibbles_word_eq ht h)) fun _ => ?_
  exact .unknown (.inr (.inl ⟨ht, (class8_unknown_function_iff _).mpr (by simp [*])⟩))

theorem decodeClassE_decoded (ht : (fieldT op).toNat = 0xE) : Decoded op (decodeClassE op) := by
  unfold decodeClassE
  iterate 2 refine .ite (fun h => .known (by simp [UnknownWord, ht, h]) (byte_word_eq ht h)) fun _ => ?_
  exact .unknown (.inr (.inr (.inl ⟨ht, by simp_all [BitVec.toNat_eq]⟩)))

theorem decodeClassF_decoded (ht : (fieldT op).toNat = 0xF) : Decoded op (decodeClassF op) := by
  unfold decodeClassF
  iterate 9 refine .ite (fun h => .known (by simp [UnknownWord, ht, h]) (byte_word_eq ht h)) fun _ => ?_
  exact .unknown (.inr (.inr (.inr ⟨ht, by simp_all [BitVec.toNat_eq]⟩)))

/-- No word of a class without a function field is unknown (R97). -/
theorem not_unknownWord (ht : (fieldT op).toNat ∉ [0x0, 0x8, 0xE, 0xF]) : ¬UnknownWord op := by
  simp only [List.mem_cons, List.not_mem_nil, or_false, not_or] at ht
  obtain ⟨h0, h8, hE, hF⟩ := ht
  simp [UnknownWord, *]

/-- Decoding a word answers as R95 and R97 say: by the word's format in the classes without a function field,
by the class's own decoder in the others. -/
theorem decodeWord_decoded (op : Word) : Decoded op (decodeWord op) := by
  unfold decodeWord
  split
  case h_1 ht => exact decodeClass0_decoded ht
  case h_2 ht | h_3 ht | h_11 ht | h_12 ht =>
    exact .known (not_unknownWord (by simp [ht])) (addr_word_eq ht)
  case h_4 ht | h_5 ht | h_7 ht | h_8 ht | h_13 ht =>
    exact .known (not_unknownWord (by simp [ht])) (byte_word_eq ht rfl)
  case h_6 ht | h_10 ht | h_14 ht =>
    exact .known (not_unknownWord (by simp [ht])) (nibbles_word_eq ht rfl)
  case h_9 ht => exact decodeClass8_decoded ht
  case h_15 ht => exact decodeClassE_decoded ht
  case h_16 =>
    have := (fieldT op).isLt
    exact decodeClassF_decoded (by simp only [imp_false] at *; omega)

end

/-- Settles O2: a word that decodes is not unknown, so it is the encoding of what it decodes to. -/
theorem encodeOfDecode : Obligations.EncodeOfDecode := by
  unfold Obligations.EncodeOfDecode
  intro op i h
  cases h ▸ decodeWord_decoded op with
  | known hu he => exact he

/-! ### The fields as numbers -/

/-- Settles O4: a field is a shift and a remainder, and the class needs no remainder. -/
theorem fieldsAreTheNamedBits : Obligations.FieldsAreTheNamedBits := by
  unfold Obligations.FieldsAreTheNamedBits
  intro op
  have hop := op.isLt
  simp only [fieldT, fieldX, fieldY, fieldN, fieldKK, fieldNNN, BitVec.extractLsb'_toNat,
    Nat.shiftRight_eq_div_pow, true_and]
  exact ⟨by omega, by omega, by omega, by omega⟩

/-- Settles O3: the statement's test is `UnknownWord`, its fields written as numbers. -/
theorem unknownEncodingsClassified : Obligations.UnknownEncodingsClassified := by
  unfold Obligations.UnknownEncodingsClassified
  intro op
  obtain ⟨ht, -, -, hn, hkk, -⟩ := fieldsAreTheNamedBits op
  rw [← ht, ← hn, ← hkk]
  have hd := decodeWord_decoded op
  generalize decodeWord op = answer at hd ⊢
  split_ifs with hfields
  · cases hd with
    | unknown hu => rfl
    | known hu he => exact absurd hfields hu
  · cases hd with
    | unknown hu => exact absurd hu hfields
    | known hu he => exact ⟨_, rfl⟩

/-- Settles O5: each word is a literal. -/
theorem exampleWordsDecode : Obligations.ExampleWordsDecode := by
  unfold Obligations.ExampleWordsDecode
  decide

end Sys2Proof
end

section
/-! The step at a word that decodes to no instruction (R98). -/

namespace Sys2Proof.Machine

/-- A step that gets past the fetch executes the word at PC and commits (R126, R130, R139). -/
theorem stepWith_of_ready (keys : Keys) (rnd : Byte) {s : State} (hr : ReadyToExecute s) :
    stepWith keys rnd s = s.commit (execWord (wordAtPc s) (s.latched keys rnd)) := by
  obtain ⟨hl, hf, hw, hp⟩ := hr
  obtain ⟨hl', -⟩ | ⟨-, f, hf', -⟩ | ⟨-, -, r, hw', -⟩ | ⟨-, -, -, hp', -⟩ | ⟨-, -, -, -, h⟩ :=
    stepWith_cases keys rnd s
  · exact absurd (hl.symm.trans hl') nofun
  · exact absurd (hf.symm.trans hf') nofun
  · exact absurd (hw.symm.trans hw') nofun
  · omega
  · exact h

theorem execWord_of_error {op : Word} {e : Reject} (h : decodeWord op = .error e) (s : State) :
    execWord op s = execUnknown op s := by
  rw [execWord, h]

/-- A commit with no other write changes PC, the ticking timers and the result alone (R131, R132). -/
theorem onlyPc_retire (s : State) (op : Word) (w : Bool) (p : Word) : OnlyPc s (s.retire op w p) :=
  ⟨fun _ => rfl, fun _ => rfl, fun _ _ => rfl, rfl, rfl, rfl, ⟨toNat_tick s.dt, toNat_tick s.st⟩,
    rfl, rfl, rfl, rfl, rfl, rfl⟩

/-- Settles O36: the step executes the unknown word on the latched state, and the commit keeps the no-op and
discards all of a fault but its record. -/
theorem unknownWordIsNoOp : Obligations.UnknownWordIsNoOp := by
  unfold Obligations.UnknownWordIsNoOp
  rintro keys rnd s op hr rfl hd
  obtain ⟨-, hf, -⟩ := id hr
  rw [stepWith_of_ready keys rnd hr, execWord_of_error hd]
  obtain ⟨hs, h⟩ | ⟨hs, h⟩ := execUnknown_cases (wordAtPc s) (s.latched keys rnd)
  · exact ⟨fun _ => ⟨_, commit_of_no_fault s h hf, rfl, rfl, onlyPc_retire _ _ _ _⟩,
      fun hs' => absurd (hs.symm.trans hs') nofun⟩
  · exact ⟨fun hs' => absurd (hs'.symm.trans hs) nofun, fun _ => commit_of_fail s h⟩

end Sys2Proof.Machine
end

section
/-! The step in each of its cases (R120 to R139): the guards, the waiting step, the fetch and the execution of
the word at PC. -/

namespace Sys2Proof.Machine

/-! ### The equations of a step -/

section
variable (keys : Keys) (rnd : Byte) {s : State}

theorem stepWith_of_not_loaded (hl : s.loaded = false) :
    stepWith keys rnd s = .next (s.report .notLoaded) := by
  rw [stepWith, hl]
  rfl

theorem stepWith_of_fault (hl : s.loaded = true) {f : FaultRecord} (hf : s.fault = some f) :
    stepWith keys rnd s = .next (s.report (.halted f)) := by
  rw [stepWith, hl, hf]
  rfl

theorem stepWith_of_waiting (hl : s.loaded = true) (hf : s.fault = none) {r : Nibble}
    (hw : s.kw = .waiting r) : stepWith keys rnd s = .next ((s.latchKeys keys).waitStep r) := by
  rw [stepWith, hl, hf, hw]
  rfl

theorem stepWith_of_past_memory (hl : s.loaded = true) (hf : s.fault = none)
    (hw : s.kw = .notWaiting) (hp : 4095 ≤ s.pc.toNat) :
    stepWith keys rnd s =
      .next (s.faulted (recordAt s (.outOfBounds .fetch (max s.pc.toNat 4096)) none)) := by
  obtain ⟨-, hp'⟩ | ⟨hfetch, -⟩ := fetch_cases (s.latched keys rnd)
  · change s.pc.toNat + 1 < 4096 at hp'
    omega
  · rw [stepWith, hl, hf, hw]
    change s.fetchExecute (s.latched keys rnd) = _
    rw [State.fetchExecute, hfetch]
    rfl

end

theorem execWord_of_ok {op : Word} {i : Instr} (h : decodeWord op = .ok i) (s : State) :
    execWord op s = exec i s := by
  rw [execWord, h]

/-! ### A waiting step -/

/-- A waiting step whose snapshot has `k` as its least key down resumes on `k` (R123). -/
theorem waitStep_of_least_key {s : State} (r : Nibble) {k : Nibble} (hk : keyDown s.keys k.toNat = true)
    (hleast : ∀ j < k.toNat, keyDown s.keys j = false) :
    s.waitStep r = ((s.setReg r (k.setWidth 8)).setKw .notWaiting).report (.resumed k) := by
  obtain ⟨hnone, -⟩ | ⟨k', hk', hleast', h⟩ := waitStep_cases s r
  · exact absurd (hk.symm.trans (hnone _ k.isLt)) nofun
  · have hge : ¬k'.toNat < k.toNat := fun hlt => absurd (hk'.symm.trans (hleast _ hlt)) nofun
    have hle : ¬k.toNat < k'.toNat := fun hlt => absurd (hk.symm.trans (hleast' _ hlt)) nofun
    obtain rfl : k' = k := BitVec.eq_of_toNat_eq (by omega)
    exact h

/-- A waiting step whose snapshot has no key down is idle (R124). -/
theorem waitStep_of_no_key {s : State} (r : Nibble) (hnone : ∀ j < 16, keyDown s.keys j = false) :
    s.waitStep r = s.report .idle := by
  obtain ⟨-, h⟩ | ⟨k, hk, -, -⟩ := waitStep_cases s r
  · exact h
  · exact absurd (hk.symm.trans (hnone _ k.isLt)) nofun

/-! ### The statements -/

/-- Settles O43: every step is one of the transitions. -/
theorem stepAlwaysAnswersNext : Obligations.StepAlwaysAnswersNext := by
  unfold Obligations.StepAlwaysAnswersNext
  intro keys rnd s
  obtain ⟨t, h, -⟩ := stepWith_transition keys rnd s
  exact ⟨t, h⟩

/-- Settles O6: putting the high byte before the low byte is shifting it left and or-ing the low byte in. -/
theorem fetchCombinesBigEndian : Obligations.FetchCombinesBigEndian := by
  unfold Obligations.FetchCombinesBigEndian
  intro s hp
  obtain ⟨h, -⟩ | ⟨-, hp'⟩ := fetch_cases s
  · rw [h, combine, BitVec.append_def, BitVec.shiftLeftZeroExtend_eq, BitVec.setWidth'_eq]
  · omega

/-- Settles O35: the step commits what the decoded instruction makes of the latched state. -/
theorem stepRunsDecodedInstruction : Obligations.StepRunsDecodedInstruction := by
  unfold Obligations.StepRunsDecodedInstruction
  refine ⟨fun s => rfl, fun keys rnd s i hr hd => ?_⟩
  have hstep : stepWith keys rnd s = s.commit (exec i (s.latched keys rnd)) := by
    rw [stepWith_of_ready keys rnd hr, execWord_of_ok hd]
  obtain ⟨t, h⟩ : ∃ t, exec i (s.latched keys rnd) = .next t := by
    obtain ⟨-, w, h⟩ | ⟨c, h⟩ := exec_written_or_fail i (s.latched keys rnd)
    · exact ⟨_, h⟩
    · exact ⟨_, h⟩
  rw [hstep]
  refine ⟨t, h, commit_of_no_fault s h, fun f hf => ?_⟩
  rw [h, commit_next, hf]
  rfl

/-- Settles O37, by the equations of the two guards. -/
theorem guardsChangeNothing : Obligations.GuardsChangeNothing := by
  unfold Obligations.GuardsChangeNothing
  exact fun keys rnd s =>
    ⟨stepWith_of_not_loaded keys rnd, fun hl _ hf => stepWith_of_fault keys rnd hl hf⟩

/-- Settles O38: the waiting step resumes on the least key, which is unique. -/
theorem keyWaitResumesOnLeastKey : Obligations.KeyWaitResumesOnLeastKey := by
  unfold Obligations.KeyWaitResumesOnLeastKey
  intro keys rnd s r k0 hl hf hw hk hleast
  rw [stepWith_of_waiting keys rnd hl hf hw,
    waitStep_of_least_key (s := s.latchKeys keys) r hk hleast]
  exact ⟨_, rfl, fun k => reg_setReg _ r k _, rfl, rfl, rfl, rfl, rfl, rfl, rfl, rfl, rfl, rfl, hf, hl,
    rfl⟩

/-- Settles O39: the waiting step finds no key. -/
theorem keyWaitIdles : Obligations.KeyWaitIdles := by
  unfold Obligations.KeyWaitIdles
  intro keys rnd s r hl hf hw hnone
  rw [stepWith_of_waiting keys rnd hl hf hw, waitStep_of_no_key (s := s.latchKeys keys) r hnone]
  rfl

/-- Settles O40, by the equation of a fetch past memory. -/
theorem fetchFaultsPastMemory : Obligations.FetchFaultsPastMemory := by
  unfold Obligations.FetchFaultsPastMemory
  exact fun keys rnd s hl hf hw hp => stepWith_of_past_memory keys rnd hl hf hw hp

end Sys2Proof.Machine
end

section
/-! The timers of an executed step (R132). -/

namespace Sys2Proof.Machine

/-- Only Fx15 writes DT (R29). -/
theorem written_dt (i : Instr) (s : State) (h : ∀ x, i ≠ .ldDtVx x) : (written i s).dt = s.dt := by
  cases i
  case ldDtVx x => exact absurd rfl (h x)
  all_goals rfl

/-- Only Fx18 writes ST (R30). -/
theorem written_st (i : Instr) (s : State) (h : ∀ x, i ≠ .ldStVx x) : (written i s).st = s.st := by
  cases i
  case ldStVx x => exact absurd rfl (h x)
  all_goals rfl

/-- Settles O45, by the transitions of a step: an unknown word and an instruction tick, the latter on the
timers its writes left, and no other transition writes a timer. -/
theorem timersTickOnExecutedSteps : Obligations.TimersTickOnExecutedSteps := by
  unfold Obligations.TimersTickOnExecutedSteps
  intro keys rnd s t hstep
  cases transition_of_stepWith hstep with
  | notLoaded | halted | idle | resumed | faulted => exact ⟨nofun, fun _ => ⟨rfl, rfl⟩⟩
  | unknown e hr hd hs =>
    refine ⟨fun op w hres => ?_, fun hno => absurd rfl (hno _ _)⟩
    obtain ⟨rfl, -⟩ : wordAtPc s = op ∧ false = w := by simpa using hres
    rw [hd]
    exact ⟨toNat_tick s.dt, toNat_tick s.st⟩
  | executed i w hr hd hok =>
    refine ⟨fun op w' hres => ?_, fun hno => absurd rfl (hno _ _)⟩
    obtain ⟨rfl, -⟩ : encode i = op ∧ w = w' := by simpa using hres
    rw [decodeOfEncode i, State.retire_dt, State.retire_st, toNat_tick, toNat_tick]
    constructor
    · split
      case h_1 x hi => cases hi; rfl
      case h_2 hi => rw [written_dt i _ fun x e => hi x (congrArg _ e)]; rfl
    · split
      case h_1 x hi => cases hi; rfl
      case h_2 hi => rw [written_st i _ fun x e => hi x (congrArg _ e)]; rfl

end Sys2Proof.Machine
end

section
/-! What a step's random byte reaches (R120, R192): every operation but Cxkk's read of the byte commutes with
latching another one. -/

namespace Sys2Proof.Machine

/-- `f` applied to the next state, if there is one. -/
def mapNext (f : State → State) : Outcome → Outcome
  | .next t => .next (f t)
  | .fault r => .fault r
  | .refused r => .refused r

section
variable (s : State) (r : Byte)

theorem memWrite_latchRnd (a : Nat) (bs : List Byte) :
    (s.latchRnd r).memWrite a bs = (s.memWrite a bs).map (·.latchRnd r) := by
  unfold State.memWrite
  cases check .write a bs.length <;> rfl

theorem push_latchRnd (w : Word) :
    (s.latchRnd r).push w = (s.push w).map (·.latchRnd r) := by
  unfold State.push
  rw [State.latchRnd_stack]
  split <;> rfl

theorem pop_latchRnd :
    (s.latchRnd r).pop = s.pop.map fun (w, t) => (w, t.latchRnd r) := by
  unfold State.pop
  rw [State.latchRnd_stack]
  cases s.stack <;> rfl

@[simp] theorem State.latchRnd_regsUpTo (x : Nibble) : (s.latchRnd r).regsUpTo x = s.regsUpTo x := rfl
@[simp] theorem State.latchRnd_effAddr : (s.latchRnd r).effAddr = s.effAddr := rfl
@[simp] theorem State.latchRnd_nextPc : (s.latchRnd r).nextPc = s.nextPc := rfl
@[simp] theorem State.latchRnd_keyIndex (x : Nibble) : (s.latchRnd r).keyIndex x = s.keyIndex x := rfl
@[simp] theorem State.latchRnd_memRead (kind : AccessKind) (a n : Nat) :
    (s.latchRnd r).memRead kind a n = s.memRead kind a n := rfl

/-- An instruction that is no Cxkk does not see the latched random byte: each operation it checks answers
alike, and everything it writes is another field. -/
theorem exec_latchRnd (i : Instr) (hi : ∀ x kk, i ≠ .rnd x kk) :
    exec i (s.latchRnd r) = mapNext (·.latchRnd r) (exec i s) := by
  cases i
  case rnd x kk => exact absurd rfl (hi x kk)
  case ret u =>
    simp only [exec, execRet, pop_latchRnd]
    cases s.pop <;> rfl
  case call nnn =>
    simp only [exec, execCall, State.latchRnd_nextPc, push_latchRnd]
    cases s.push s.nextPc <;> rfl
  case drw x y n =>
    simp only [exec, execDrw, State.latchRnd_effAddr, State.latchRnd_memRead]
    cases s.memRead .read s.effAddr n.toNat <;> rfl
  case ldVxMem x =>
    simp only [exec, execLdVxMem, State.latchRnd_effAddr, State.latchRnd_memRead]
    cases s.memRead .read s.effAddr (x.toNat + 1) <;> rfl
  case skp x | sknp x =>
    simp only [exec, execSkp, execSknp, State.latchRnd_keyIndex]
    cases s.keyIndex x <;> rfl
  case ldB x =>
    simp only [exec, execLdB, State.latchRnd_effAddr, State.latchRnd_reg, memWrite_latchRnd]
    cases s.memWrite s.effAddr (bcdDigits (s.reg x)) <;> rfl
  case ldMemVx x =>
    simp only [exec, execLdMemVx, State.latchRnd_effAddr, State.latchRnd_regsUpTo, memWrite_latchRnd]
    cases s.memWrite s.effAddr (s.regsUpTo x) <;> rfl
  all_goals rfl

theorem execUnknown_latchRnd (op : Word) :
    execUnknown op (s.latchRnd r) = mapNext (·.latchRnd r) (execUnknown op s) := by
  unfold execUnknown
  rw [State.latchRnd_strict]
  split <;> rfl

theorem execWord_latchRnd (op : Word) (h : ∀ x kk, decodeWord op ≠ .ok (.rnd x kk)) :
    execWord op (s.latchRnd r) = mapNext (·.latchRnd r) (execWord op s) := by
  cases hd : decodeWord op with
  | ok i =>
    rw [execWord_of_ok hd, execWord_of_ok hd]
    exact exec_latchRnd s r i fun x kk hi => h x kk (hi ▸ hd)
  | error e =>
    rw [execWord_of_error hd, execWord_of_error hd]
    exact execUnknown_latchRnd s r op

/-- A commit keeps the byte latched in the working copy, or discards it with the copy. -/
theorem commit_mapNext_latchRnd {o : Outcome} {t t' : State} {r' : Byte}
    (h : s.commit (mapNext (·.latchRnd r) o) = .next t)
    (h' : s.commit (mapNext (·.latchRnd r') o) = .next t') : t.latchRnd 0 = t'.latchRnd 0 := by
  cases o with
  | next u =>
    simp only [mapNext, commit_next, State.latchRnd_fault] at h h'
    cases hf : u.fault with
    | none | some =>
      rw [hf] at h h'
      cases h
      cases h'
      rfl
  | fault c | refused c => cases h

end

/-- A step that does not get to execute a word has no use for its random byte (R121, R123, R125). -/
theorem stepWith_rnd_of_not_ready (keys : Keys) (r r' : Byte) {s : State} (hr : ¬ReadyToExecute s) :
    stepWith keys r s = stepWith keys r' s := by
  obtain ⟨hl, h⟩ | ⟨hl, f, hf, h⟩ | ⟨hl, hf, k, hw, h⟩ | ⟨hl, hf, hw, hp, h⟩ | ⟨hl, hf, hw, hp, -⟩ :=
    stepWith_cases keys r s
  · rw [h, stepWith_of_not_loaded keys r' hl]
  · rw [h, stepWith_of_fault keys r' hl hf]
  · rw [h, stepWith_of_waiting keys r' hl hf hw]
  · rw [h, stepWith_of_past_memory keys r' hl hf hw (by omega)]
    rfl
  · exact absurd ⟨hl, hf, hw, hp⟩ hr

/-- Settles O53: a step that executes no word has no use for the byte, and executing any word but Cxkk
commutes with latching it. -/
theorem randomByteReachesOnlyRnd : Obligations.RandomByteReachesOnlyRnd := by
  unfold Obligations.RandomByteReachesOnlyRnd
  intro keys r r' s t t' hd h h'
  by_cases hr : ReadyToExecute s
  · rw [stepWith_of_ready keys _ hr, State.latched, execWord_latchRnd _ _ _ hd] at h h'
    exact commit_mapNext_latchRnd s r h h'
  · rw [stepWith_rnd_of_not_ready keys r r' hr] at h
    cases h.symm.trans h'
    rfl

end Sys2Proof.Machine
end

section
/-! What the host reads of the core (R137, R234, R257). -/

namespace Sys2Proof.Machine

/-- Settles O54: bit `y * 64 + x` of the picture is the pixel at column `x` and row `y`, its remainder and its
quotient by 64. -/
theorem outputsReadPictureAndSound : Obligations.OutputsReadPictureAndSound := by
  unfold Obligations.OutputsReadPictureAndSound
  refine fun s => ⟨fun x y => ?_, ?_, rfl⟩
  · have hx := x.isLt
    have hy := y.isLt
    have hcol : Fin.ofNat 64 (y.val * 64 + x.val) = x := Fin.ext (by simp)
    have hrow : Fin.ofNat 32 ((y.val * 64 + x.val) / 64) = y := Fin.ext (by simp; omega)
    change s.fb.bits.getLsbD _ = _
    rw [Frame.bits, getLsbD_bitsOf _ _ _ (by omega), hcol, hrow]
  · exact decide_eq_true_iff.trans Nat.pos_iff_ne_zero

end Sys2Proof.Machine
end

section
/-! Control flow (41_control_flow.md): which words encode each instruction, the PC it commits, and what it
does with the call stack. -/

namespace Sys2Proof.Machine

/-! ### The words an encoding names -/

section
variable {mask pattern op : Word} {f : Word → Instr}

/-- A mask that keeps the class fixes it. -/
theorem fieldT_of_and_eq (hm : fieldT mask = BitVec.allOnes 4) (h : op &&& mask = pattern) :
    fieldT op = fieldT pattern := by
  rw [← h, fieldT_and, hm, BitVec.and_allOnes]

/-- A mask that keeps the bottom byte fixes it. -/
theorem fieldKK_of_and_eq (hm : fieldKK mask = BitVec.allOnes 8) (h : op &&& mask = pattern) :
    fieldKK op = fieldKK pattern := by
  rw [← h, fieldKK_and, hm, BitVec.and_allOnes]

/-- Decoding undoes encoding, so a word decodes to the instruction whose encoding it is (R95). -/
theorem encodedBy_of_encode (h : ∀ op, op &&& mask = pattern → encode (f op) = op) :
    EncodedBy mask pattern f :=
  fun op hop => (congrArg decodeWord (h op hop)).symm.trans (decodeOfEncode (f op))

/-- An instruction that is alone in its class `t` is named by the class. -/
theorem encodedBy_class (t : Nibble) (h : ∀ op, (fieldT op).toNat = t.toNat → encode (f op) = op) :
    EncodedBy 0xF000 (t ++ 0#12) f :=
  encodedBy_of_encode fun op hop => h op <| by
    rw [fieldT_of_and_eq (by decide) hop, fieldT_addr]

/-- An instruction with a function byte is named by its class `t` and that byte. -/
theorem encodedBy_functionByte (t : Nibble) (kk : Byte)
    (h : ∀ op, (fieldT op).toNat = t.toNat → fieldKK op = kk → encode (f op) = op) :
    EncodedBy 0xF0FF (t ++ 0#4 ++ kk) f :=
  encodedBy_of_encode fun op hop => h op
    (by rw [fieldT_of_and_eq (by decide) hop, fieldT_byte])
    (by rw [fieldKK_of_and_eq (by decide) hop, fieldKK_byte])

end

section
variable {i : Instr} {s : State} {nnn : Addr} {u : Nibble} {w : Bool} {p : Word}

/-! ### The PC committed -/

theorem toNat_zext : (zext nnn).toNat = nnn.toNat :=
  BitVec.toNat_setWidth_of_le (by decide)

/-- The target of JP V0 is the exact sum: two such operands cannot wrap 16 bits (R158). -/
theorem toNat_offsetTarget : (s.offsetTarget nnn).toNat = nnn.toNat + (s.reg 0).toNat := by
  have hreg : ((s.reg 0).setWidth 16).toNat = (s.reg 0).toNat := BitVec.toNat_setWidth_of_le (by decide)
  rw [State.offsetTarget, BitVec.toNat_add, toNat_zext, hreg]
  omega

theorem skipPc_beq (s : State) (a b : Byte) :
    s.skipPc (a == b) = if a = b then s.pc + 4 else s.pc + 2 := by
  simp [State.skipPc, State.nextPc]

theorem skipPc_bne (s : State) (a b : Byte) :
    s.skipPc (a != b) = if a = b then s.pc + 2 else s.pc + 4 := by
  simp [State.skipPc, State.nextPc]

/-- An instruction that commits a next PC and writes nothing else completes with it. -/
theorem completes_onlyPc (h : exec i s = .next (s.retire (encode i) w p)) :
    ∃ t, Completes i w p s t ∧ OnlyPc s t :=
  ⟨_, ⟨h, rfl, rfl⟩, onlyPc_retire s _ w p⟩

/-! ### The call stack -/

/-- A commit after a write of the call stack changes that, PC, the ticking timers and the result alone. -/
theorem onlyStack_retire (s : State) (entries : List Word) (op : Word) (w : Bool) (p : Word) :
    OnlyStack s ((s.setStack entries).retire op w p) :=
  ⟨fun _ => rfl, fun _ => rfl, fun _ _ => rfl, rfl, rfl, ⟨toNat_tick s.dt, toNat_tick s.st⟩,
    rfl, rfl, rfl, rfl, rfl, rfl⟩

theorem exec_ret_of_cons (u : Nibble) {top : Word} {rest : List Word} (hs : s.stack = top :: rest) :
    exec (.ret u) s = .next ((s.setStack rest).retire (encode (.ret u)) false top) := by
  obtain ⟨top', rest', hs', h⟩ | ⟨hs', -⟩ := execRet_cases u s
  · obtain ⟨rfl, rfl⟩ := List.cons.inj (hs.symm.trans hs')
    exact h
  · exact absurd (hs.symm.trans hs') nofun

theorem raises_ret_of_nil (u : Nibble) (hs : s.stack = []) : Raises (.ret u) .stackUnderflow s := by
  obtain ⟨top, rest, hs', -⟩ | ⟨-, h⟩ := execRet_cases u s
  · exact absurd (hs.symm.trans hs') nofun
  · exact h

theorem exec_call_of_lt (nnn : Addr) (hs : s.stack.length < 16) :
    exec (.call nnn) s =
      .next ((s.setStack (s.nextPc :: s.stack)).retire (encode (.call nnn)) false (zext nnn)) := by
  obtain ⟨-, h⟩ | ⟨hs', -⟩ := execCall_cases nnn s
  · exact h
  · omega

theorem raises_call_of_ge (nnn : Addr) (hs : 16 ≤ s.stack.length) :
    Raises (.call nnn) .stackOverflow s := by
  obtain ⟨hs', -⟩ | ⟨-, h⟩ := execCall_cases nnn s
  · omega
  · exact h

end

/-! ### The statements -/

/-- Settles O7: RET commits the top entry as PC and keeps the rest, or raises. -/
theorem retPopsReturnAddress : Obligations.RetPopsReturnAddress := by
  unfold Obligations.RetPopsReturnAddress
  refine ⟨encodedBy_functionByte 0x0 0xEE fun _ => byte_word_eq, fun u s => ⟨fun w rest hs => ?_, ?_⟩⟩
  · exact ⟨_, ⟨exec_ret_of_cons u hs, rfl, rfl⟩, rfl, onlyStack_retire s _ _ _ _⟩
  · exact raises_ret_of_nil u

/-- Settles O8: the PC committed is the address, as wide as PC. -/
theorem jpSetsPc : Obligations.JpSetsPc := by
  unfold Obligations.JpSetsPc
  refine ⟨encodedBy_class 0x1 fun _ => addr_word_eq, fun nnn s => ?_⟩
  exact ⟨_, ⟨rfl, rfl, rfl⟩, toNat_zext, onlyPc_retire s _ _ _⟩

/-- Settles O9: CALL puts the default next PC on the stack and commits the address, or raises. -/
theorem callPushesReturnAddress : Obligations.CallPushesReturnAddress := by
  unfold Obligations.CallPushesReturnAddress
  refine ⟨encodedBy_class 0x2 fun _ => addr_word_eq, fun nnn s => ⟨fun hs => ?_, ?_⟩⟩
  · exact ⟨_, ⟨exec_call_of_lt nnn hs, rfl, rfl⟩, rfl, onlyStack_retire s _ _ _ _⟩
  · exact raises_call_of_ge nnn

/-- Settles O10: both skips commit only PC, each on its own sense of the comparison. -/
theorem immediateSkips : Obligations.ImmediateSkips := by
  unfold Obligations.ImmediateSkips
  refine ⟨encodedBy_class 0x3 fun _ ht => byte_word_eq ht rfl,
    encodedBy_class 0x4 fun _ ht => byte_word_eq ht rfl, fun x kk s => ⟨?_, ?_⟩⟩
  · rw [← skipPc_beq]
    exact completes_onlyPc rfl
  · rw [← skipPc_bne]
    exact completes_onlyPc rfl

/-- Settles O11: as for an immediate; the ignored bits are in the word alone. -/
theorem registerSkips : Obligations.RegisterSkips := by
  unfold Obligations.RegisterSkips
  refine ⟨encodedBy_class 0x5 fun _ ht => nibbles_word_eq ht rfl,
    encodedBy_class 0x9 fun _ ht => nibbles_word_eq ht rfl, fun x y u s => ⟨?_, ?_⟩⟩
  · rw [← skipPc_beq]
    exact completes_onlyPc rfl
  · rw [← skipPc_bne]
    exact completes_onlyPc rfl

/-- Settles O12: the PC committed is the sum, which needs no mask to fit 16 bits. -/
theorem jpV0AddsOffset : Obligations.JpV0AddsOffset := by
  unfold Obligations.JpV0AddsOffset
  refine ⟨encodedBy_class 0xB fun _ => addr_word_eq, fun nnn s => ?_⟩
  exact ⟨_, ⟨rfl, rfl, rfl⟩, toNat_offsetTarget, onlyPc_retire s _ _ _⟩

/-- Settles O57: RET pops the entry that CALL pushed, and the rest is the stack before the CALL. -/
theorem callThenRetReturns : Obligations.CallThenRetReturns := by
  unfold Obligations.CallThenRetReturns
  intro nnn u s hs
  exact ⟨_, _, exec_call_of_lt nnn hs, exec_ret_of_cons u rfl, rfl, rfl, fun _ => rfl, fun _ => rfl⟩

end Sys2Proof.Machine
end

section
/-! Register arithmetic and logic (42_alu.md): the results and flags as numbers, which words of class 8 encode
each instruction, and what a write of one register, or of one register and VF, leaves unchanged. -/

namespace Sys2Proof.Machine

/-! ### Results and flags as numbers -/

section
variable (a b : Byte)

theorem toNat_addBytes : (addBytes a b).toNat = (a.toNat + b.toNat) % 256 := BitVec.toNat_ofNat _ 8

theorem toNat_subBytes : ((subBytes a b).toNat : Int) = ((a.toNat : Int) - (b.toNat : Int)) % 256 := by
  rw [subBytes, BitVec.toNat_ofInt]
  exact Int.toNat_of_nonneg (Int.emod_nonneg _ (by decide))

theorem toNat_shiftRight : (shiftRight a).toNat = a.toNat / 2 := by
  rw [shiftRight, BitVec.toNat_ushiftRight, Nat.shiftRight_eq_div_pow, Nat.pow_one]

theorem toNat_shiftLeft : (shiftLeft a).toNat = a.toNat * 2 % 256 := by
  rw [shiftLeft, BitVec.toNat_shiftLeft, Nat.shiftLeft_eq, Nat.pow_one]

theorem toNat_flagByte (c : Bool) : (flagByte c).toNat = c.toNat := by
  cases c <;> rfl

theorem carryFlag_eq_ite : carryFlag a b = if a.toNat + b.toNat > 255 then 1 else 0 := by
  simp [carryFlag, flagByte]

theorem notBorrowFlag_eq_ite : notBorrowFlag a b = if b.toNat > a.toNat then 0 else 1 := by
  by_cases h : b.toNat > a.toNat
  · rw [notBorrowFlag, decide_eq_true h, if_pos h]; rfl
  · rw [notBorrowFlag, decide_eq_false h, if_neg h]; rfl

theorem toNat_shiftedOutRight : (shiftedOutRight b).toNat = b.toNat % 2 := by
  rw [shiftedOutRight, toNat_flagByte, BitVec.getLsbD, Nat.toNat_testBit, Nat.pow_zero, Nat.div_one]

/-- The bit shifted out on the left is the quotient by 128, which is below 2 for a byte (R191). -/
theorem toNat_shiftedOutLeft : (shiftedOutLeft b).toNat = b.toNat / 128 := by
  have := b.isLt
  rw [shiftedOutLeft, toNat_flagByte, BitVec.getLsbD, Nat.toNat_testBit]
  omega

end

/-! ### The words of class 8 -/

section
variable {mask pattern op : Word} {f : Word → Instr}

/-- A mask that keeps the bottom nibble fixes it. -/
theorem fieldN_of_and_eq (hm : fieldN mask = BitVec.allOnes 4) (h : op &&& mask = pattern) :
    fieldN op = fieldN pattern := by
  rw [← h, fieldN_and, hm, BitVec.and_allOnes]

/-- An instruction with a function nibble is named by its class `t` and that nibble. -/
theorem encodedBy_functionNibble (t n : Nibble)
    (h : ∀ op, (fieldT op).toNat = t.toNat → fieldN op = n → encode (f op) = op) :
    EncodedBy 0xF00F (t ++ 0#4 ++ 0#4 ++ n) f :=
  encodedBy_of_encode fun op hop => h op
    (by rw [fieldT_of_and_eq (by decide) hop, fieldT_nibbles])
    (by rw [fieldN_of_and_eq (by decide) hop, fieldN_nibbles])

end

/-! ### One register, or one register and the flag, written -/

section
variable {i : Instr} {s : State} {x : Nibble} {b c : Byte}

/-- A commit after a write of general registers changes those, PC, the ticking timers and the result
alone. -/
theorem onlyRegs_retire (s : State) (v : Regs) (op : Word) (w : Bool) (p : Word) :
    OnlyRegs s ({ s with v := v }.retire op w p) :=
  ⟨fun _ => rfl, fun _ _ => rfl, rfl, rfl, rfl, ⟨toNat_tick s.dt, toNat_tick s.st⟩,
    rfl, rfl, rfl, rfl, rfl, rfl⟩

/-- An instruction that writes `V[x]` alone completes with the value there and no flag written. -/
theorem completes_setReg (h : exec i s = .next ((s.setReg x b).retire (encode i) false s.nextPc)) :
    ∃ t, Completes i false (s.pc + 2) s t ∧ t.reg x = b ∧ (∀ k, k ≠ x → t.reg k = s.reg k) ∧
      OnlyRegs s t :=
  ⟨_, ⟨h, rfl, rfl⟩, (reg_setReg s x x b).trans (if_pos rfl),
    fun k hk => (reg_setReg s x k b).trans (if_neg hk), onlyRegs_retire s _ _ _ _⟩

/-- An instruction that writes `V[x]` and then VF completes with the value in `V[x]`, unless that is VF, and
with the flag in VF (R186). -/
theorem completes_setRegFlag
    (h : exec i s = .next ((s.setRegFlag x b c).retire (encode i) false s.nextPc)) :
    ∃ t, Completes i false (s.pc + 2) s t ∧ (x ≠ 15 → t.reg x = b) ∧ t.reg 15 = c ∧
      (∀ k, k ≠ x → k ≠ 15 → t.reg k = s.reg k) ∧ OnlyRegs s t :=
  ⟨_, ⟨h, rfl, rfl⟩,
    fun hx => (reg_setRegFlag s x x b c).trans ((if_neg hx).trans (if_pos rfl)),
    (reg_setRegFlag s x 15 b c).trans (if_pos rfl),
    fun k hk hf => (reg_setRegFlag s x k b c).trans ((if_neg hf).trans (if_neg hk)),
    onlyRegs_retire s _ _ _ _⟩

end

/-! ### The statements -/

/-- Settles O17: the result and the carry are both of the exact sum, and VF is written last. -/
theorem addRegCarry : Obligations.AddRegCarry := by
  unfold Obligations.AddRegCarry
  refine ⟨encodedBy_functionNibble 0x8 0x4 fun _ => nibbles_word_eq, fun x y s => ?_⟩
  obtain ⟨t, hc, hx, hf, hk, ho⟩ := completes_setRegFlag (i := .addReg x y) (s := s) rfl
  exact ⟨t, hc, fun h => by rw [hx h, toNat_addBytes], by rw [hf, carryFlag_eq_ite], hk, ho⟩

/-- Settles O18: the difference is taken in the integers, and the flag compares the same two operands. -/
theorem subNotBorrow : Obligations.SubNotBorrow := by
  unfold Obligations.SubNotBorrow
  refine ⟨encodedBy_functionNibble 0x8 0x5 fun _ => nibbles_word_eq, fun x y s => ?_⟩
  obtain ⟨t, hc, hx, hf, hk, ho⟩ := completes_setRegFlag (i := .sub x y) (s := s) rfl
  exact ⟨t, hc, fun h => by rw [hx h, toNat_subBytes], by rw [hf, notBorrowFlag_eq_ite], hk, ho⟩

/-- Settles O20: as for SUB, with the operands exchanged in the difference and in the flag. -/
theorem subnNotBorrow : Obligations.SubnNotBorrow := by
  unfold Obligations.SubnNotBorrow
  refine ⟨encodedBy_functionNibble 0x8 0x7 fun _ => nibbles_word_eq, fun x y s => ?_⟩
  obtain ⟨t, hc, hx, hf, hk, ho⟩ := completes_setRegFlag (i := .subn x y) (s := s) rfl
  exact ⟨t, hc, fun h => by rw [hx h, toNat_subBytes], by rw [hf, notBorrowFlag_eq_ite], hk, ho⟩

/-- Settles O13: the one register written is `V[x]`. -/
theorem ldImmLoadsImmediate : Obligations.LdImmLoadsImmediate := by
  unfold Obligations.LdImmLoadsImmediate
  refine ⟨encodedBy_class 0x6 fun _ ht => byte_word_eq ht rfl, fun x kk s => ?_⟩
  exact ⟨_, ⟨rfl, rfl, rfl⟩, fun k => reg_setReg s x k kk, onlyRegs_retire s _ _ _ _⟩

/-- Settles O14: the sum is narrowed to a byte, and the one register written is `V[x]`. -/
theorem addImmWraps : Obligations.AddImmWraps := by
  unfold Obligations.AddImmWraps
  refine ⟨encodedBy_class 0x7 fun _ ht => byte_word_eq ht rfl, fun x kk s => ?_⟩
  obtain ⟨t, hc, hx, hk, ho⟩ := completes_setReg (i := .addImm x kk) (s := s) rfl
  exact ⟨t, hc, by rw [hx, toNat_addBytes], hk, ho⟩

/-- Settles O15: the one register written is `V[x]`, with the value `V[y]` had. -/
theorem ldRegCopies : Obligations.LdRegCopies := by
  unfold Obligations.LdRegCopies
  refine ⟨encodedBy_functionNibble 0x8 0x0 fun _ => nibbles_word_eq, fun x y s => ?_⟩
  exact ⟨_, ⟨rfl, rfl, rfl⟩, fun k => reg_setReg s x k (s.reg y), onlyRegs_retire s _ _ _ _⟩

/-- Settles O16: each operation writes `V[x]` alone, and a bit of its result is that operation on the bits. -/
theorem logicOps : Obligations.LogicOps := by
  unfold Obligations.LogicOps
  refine ⟨encodedBy_functionNibble 0x8 0x1 fun _ => nibbles_word_eq,
    encodedBy_functionNibble 0x8 0x2 fun _ => nibbles_word_eq,
    encodedBy_functionNibble 0x8 0x3 fun _ => nibbles_word_eq, fun x y s => ⟨?_, ?_, ?_⟩⟩
  · obtain ⟨t, hc, hx, hk, ho⟩ := completes_setReg (i := .or x y) (s := s) rfl
    exact ⟨t, hc, fun j => by rw [hx, BitVec.getLsbD_or], hk, ho⟩
  · obtain ⟨t, hc, hx, hk, ho⟩ := completes_setReg (i := .and x y) (s := s) rfl
    exact ⟨t, hc, fun j => by rw [hx, BitVec.getLsbD_and], hk, ho⟩
  · obtain ⟨t, hc, hx, hk, ho⟩ := completes_setReg (i := .xor x y) (s := s) rfl
    exact ⟨t, hc, fun j => by rw [hx, BitVec.getLsbD_xor], hk, ho⟩

/-- Settles O19: the result halves `V[x]`, and the flag is the remainder of `V[y]`. -/
theorem shrTestsVyBitZero : Obligations.ShrTestsVyBitZero := by
  unfold Obligations.ShrTestsVyBitZero
  refine ⟨encodedBy_functionNibble 0x8 0x6 fun _ => nibbles_word_eq, fun x y s => ?_⟩
  obtain ⟨t, hc, hx, hf, hk, ho⟩ := completes_setRegFlag (i := .shr x y) (s := s) rfl
  exact ⟨t, hc, fun h => by rw [hx h, toNat_shiftRight], by rw [hf, toNat_shiftedOutRight], hk, ho⟩

/-- Settles O21: the result doubles `V[x]` modulo 256, and the flag is what doubling `V[y]` carries out. -/
theorem shlTestsVyBitSeven : Obligations.ShlTestsVyBitSeven := by
  unfold Obligations.ShlTestsVyBitSeven
  refine ⟨encodedBy_functionNibble 0x8 0xE fun _ => nibbles_word_eq, fun x y s => ?_⟩
  obtain ⟨t, hc, hx, hf, hk, ho⟩ := completes_setRegFlag (i := .shl x y) (s := s) rfl
  exact ⟨t, hc, fun h => by rw [hx h, toNat_shiftLeft], by rw [hf, toNat_shiftedOutLeft], hk, ho⟩

/-- Settles O22: the byte is the one latched in the state, whatever it is. -/
theorem rndMasksRandomByte : Obligations.RndMasksRandomByte := by
  unfold Obligations.RndMasksRandomByte
  refine ⟨encodedBy_class 0xC fun _ ht => byte_word_eq ht rfl, fun x kk s => ?_⟩
  obtain ⟨t, hc, hx, hk, ho⟩ := completes_setReg (i := .rnd x kk) (s := s) rfl
  exact ⟨t, hc, fun j => by rw [hx, BitVec.getLsbD_and], hk, ho⟩

end Sys2Proof.Machine
end

section
/-! The index register and memory transfer (43_index_memory.md): I as a number, the bytes and registers a
transfer reaches, and what a write of I with registers, or of I with memory, leaves unchanged. -/

namespace Sys2Proof.Machine

/-! ### I and the flag as numbers -/

/-- A value kept to 12 bits fits I (R211, R215). -/
theorem toNat_ofNat_mod_4096 (n : Nat) : (BitVec.ofNat 16 (n % 4096)).toNat = n % 4096 :=
  (BitVec.toNat_ofNat _ 16).trans (Nat.mod_eq_of_lt (by omega))

theorem toNat_advancedI (s : State) (x : Nibble) :
    (s.advancedI x).toNat = (s.i.toNat + x.toNat + 1) % 4096 := toNat_ofNat_mod_4096 _

/-- The address of a glyph needs no mask: it is at most 1275 (R212). -/
theorem toNat_glyphAddr (b : Byte) : (glyphAddr b).toNat = 5 * b.toNat :=
  (BitVec.toNat_ofNat _ 16).trans (Nat.mod_eq_of_lt (by omega))

theorem indexOverflowFlag_eq_ite (i : Word) (b : Byte) :
    indexOverflowFlag i b = if i.toNat + b.toNat > 0x0FFF then 1 else 0 := by
  simp [indexOverflowFlag, indexSum, flagByte]

/-! ### The bytes a transfer writes -/

section
variable (m : Memory) (a : Nat)

/-- Byte `k` of a write reads back at `a + k`. -/
theorem Memory.read_writeBytes_add {bs : List Byte} {k : Nat} (h : k < bs.length) :
    Memory.read (Memory.writeBytes m a bs) (a + k) = bs.getD k 0 := by
  rw [Memory.read_writeBytes, if_pos (by omega), Nat.add_sub_cancel_left]

theorem length_bcdDigits (b : Byte) : (bcdDigits b).length = 3 := rfl

/-- The digits written read back as numbers: none is above 9, so none is narrowed (R213). -/
theorem toNat_read_writeBytes_bcdDigits (b : Byte) :
    (Memory.read (Memory.writeBytes m a (bcdDigits b)) a).toNat = b.toNat / 100 ∧
      (Memory.read (Memory.writeBytes m a (bcdDigits b)) (a + 1)).toNat = b.toNat / 10 % 10 ∧
      (Memory.read (Memory.writeBytes m a (bcdDigits b)) (a + 2)).toNat = b.toNat % 10 := by
  have hdigit (k : Nat) (hk : k < 3) :
      (Memory.read (Memory.writeBytes m a (bcdDigits b)) (a + k)).toNat =
        ((bcdDigits b).getD k 0).toNat :=
    congrArg _ (Memory.read_writeBytes_add m a hk)
  exact ⟨(hdigit 0 (by decide)).trans (Nat.mod_eq_of_lt (by omega)),
    (hdigit 1 (by decide)).trans (Nat.mod_eq_of_lt (by omega)),
    (hdigit 2 (by decide)).trans (Nat.mod_eq_of_lt (by omega))⟩

/-- A block store puts each of `V[0..x]` at its own offset (R216). -/
theorem read_writeBytes_regsUpTo (s : State) {x k : Nibble} (hk : k.toNat ≤ x.toNat) :
    Memory.read (Memory.writeBytes m a (s.regsUpTo x)) (a + k.toNat) = s.reg k := by
  rw [Memory.read_writeBytes_add m a (by rw [length_regsUpTo]; omega), getD_regsUpTo s x k hk]

end

/-- A block load fills each of `V[0..x]` from its own offset and no other register (R217). -/
theorem reg_fillRegs_readBytes (s : State) (m : Memory) (a : Nat) (x k : Nibble) :
    (s.fillRegs (Memory.readBytes m a (x.toNat + 1))).reg k =
      if k.toNat ≤ x.toNat then Memory.read m (a + k.toNat) else s.reg k := by
  rw [reg_fillRegs, Memory.length_readBytes]
  by_cases hk : k.toNat ≤ x.toNat
  · rw [if_pos hk, if_pos (by omega), Memory.getD_readBytes _ _ _ _ (by omega)]
  · rw [if_neg hk, if_neg (by omega)]

/-! ### What stays as it was -/

section
variable (s : State) (idx : Word) (op : Word) (w : Bool) (p : Word)

/-- A commit after a write of general registers and I changes those, PC, the ticking timers and the result
alone. -/
theorem onlyRegsIndex_retire (v : Regs) :
    OnlyRegsIndex s ({ s with v := v, i := idx }.retire op w p) :=
  ⟨fun _ => rfl, fun _ _ => rfl, rfl, rfl, ⟨toNat_tick s.dt, toNat_tick s.st⟩,
    rfl, rfl, rfl, rfl, rfl, rfl⟩

/-- A commit after a write of memory and I changes those, PC, the ticking timers and the result alone. -/
theorem onlyMemoryIndex_retire (m : Memory) :
    OnlyMemoryIndex s ({ s with mem := m, i := idx }.retire op w p) :=
  ⟨fun _ => rfl, fun _ _ => rfl, rfl, rfl, ⟨toNat_tick s.dt, toNat_tick s.st⟩,
    rfl, rfl, rfl, rfl, rfl, rfl⟩

end

/-! ### The statements -/

/-- Settles O26, by the two ways LD B can end: the three digits are written from I, or the write raises. -/
theorem ldBStoresDecimalDigits : Obligations.LdBStoresDecimalDigits := by
  unfold Obligations.LdBStoresDecimalDigits
  refine ⟨encodedBy_functionByte 0xF 0x33 fun _ => byte_word_eq, fun x s => ?_⟩
  obtain ⟨hle, h⟩ | ⟨hgt, h⟩ := execLdB_cases x s
  · obtain ⟨hhundreds, htens, hunits⟩ :=
      toNat_read_writeBytes_bcdDigits s.mem s.i.toNat (s.reg x)
    refine ⟨fun _ => ⟨_, ⟨h, rfl, rfl⟩, hhundreds, htens, hunits, fun a ha => ?_, rfl,
      onlyMemoryIndex_retire s _ _ _ _ _⟩, fun _ => by omega⟩
    exact Memory.read_writeBytes_outside _ _ _ _ (by rw [length_bcdDigits]; omega)
  · exact ⟨fun _ => by omega, fun _ => h⟩

/-- Settles O27, by the two ways a block store can end; the bytes written are the registers. -/
theorem blockStoreSpills : Obligations.BlockStoreSpills := by
  unfold Obligations.BlockStoreSpills
  refine ⟨encodedBy_functionByte 0xF 0x55 fun _ => byte_word_eq, fun x s => ?_⟩
  obtain ⟨hlt, h⟩ | ⟨hge, h⟩ := execLdMemVx_cases x s
  · refine ⟨fun _ => ⟨_, ⟨h, rfl, rfl⟩, fun k hk => read_writeBytes_regsUpTo _ _ s hk,
      fun a ha => ?_, toNat_advancedI s x, onlyMemoryIndex_retire s _ _ _ _ _⟩, fun _ => by omega⟩
    exact Memory.read_writeBytes_outside _ _ _ _ (by rw [length_regsUpTo]; omega)
  · exact ⟨fun _ => by omega, fun _ => h⟩

/-- Settles O28, by the two ways a block load can end; the registers filled are the bytes read. -/
theorem blockLoadFills : Obligations.BlockLoadFills := by
  unfold Obligations.BlockLoadFills
  refine ⟨encodedBy_functionByte 0xF 0x65 fun _ => byte_word_eq, fun x s => ?_⟩
  obtain ⟨hlt, h⟩ | ⟨hge, h⟩ := execLdVxMem_cases x s
  · exact ⟨fun _ => ⟨_, ⟨h, rfl, rfl⟩, fun k => reg_fillRegs_readBytes s _ _ x k,
      toNat_advancedI s x, onlyRegsIndex_retire s _ _ _ _ _⟩, fun _ => by omega⟩
  · exact ⟨fun _ => by omega, fun _ => h⟩

/-- Settles O23: I is wider than an address, so no bit of it is lost. -/
theorem ldISetsIndex : Obligations.LdISetsIndex := by
  unfold Obligations.LdISetsIndex
  refine ⟨encodedBy_class 0xA fun _ => addr_word_eq, fun nnn s => ?_⟩
  exact ⟨_, ⟨rfl, rfl, rfl⟩, toNat_zext, fun _ => rfl, onlyRegsIndex_retire s _ _ _ _ _⟩

/-- Settles O24: the sum and the flag are both of the old I and the old `V[x]`, and VF is the one register
written. -/
theorem addIOverflow : Obligations.AddIOverflow := by
  unfold Obligations.AddIOverflow
  refine ⟨encodedBy_functionByte 0xF 0x1E fun _ => byte_word_eq, fun x s => ?_⟩
  refine ⟨_, ⟨rfl, rfl, rfl⟩, toNat_ofNat_mod_4096 _, ?_, fun k hk => ?_,
    onlyRegsIndex_retire s _ _ _ _ _⟩
  · rw [← indexOverflowFlag_eq_ite]
    exact (reg_setVF _ 15 _).trans (if_pos rfl)
  · exact (reg_setVF _ k _).trans (if_neg hk)

/-- Settles O25: five times a byte fits I. -/
theorem ldFPointsAtGlyph : Obligations.LdFPointsAtGlyph := by
  unfold Obligations.LdFPointsAtGlyph
  refine ⟨encodedBy_functionByte 0xF 0x29 fun _ => byte_word_eq, fun x s => ?_⟩
  exact ⟨_, ⟨rfl, rfl, rfl⟩, toNat_glyphAddr _, fun _ => rfl, onlyRegsIndex_retire s _ _ _ _ _⟩

end Sys2Proof.Machine
end

section
/-! The display (44_display.md): a drawing as one list of pixels to plot, each of them once, and the pixels
under a sprite's set bits as the members of that list. -/

namespace Sys2Proof.Machine

/-! ### Plotting a list of pixels -/

/-- Plot the pixels of a list in order. -/
def plotAll (l : List (Fin 64 × Fin 32)) (d : Canvas) : Canvas :=
  l.foldl (fun d p => plot p.1 p.2 d) d

theorem plotAll_cons (p : Fin 64 × Fin 32) (l : List (Fin 64 × Fin 32)) (d : Canvas) :
    plotAll (p :: l) d = plotAll l (plot p.1 p.2 d) := rfl

theorem plotAll_append (l l' : List (Fin 64 × Fin 32)) (d : Canvas) :
    plotAll (l ++ l') d = plotAll l' (plotAll l d) := List.foldl_append

section
variable {l : List (Fin 64 × Fin 32)} {p q : Fin 64 × Fin 32}

/-- Plotting a pixel that is not on the list leaves the pixels on it as they were. -/
theorem pixel_plot_of_notMem (h : p ∉ l) (d : Canvas) (hq : q ∈ l) :
    (plot p.1 p.2 d).fb.pixel q.1 q.2 = d.fb.pixel q.1 q.2 :=
  (pixel_toggle ..).trans (if_neg fun ⟨hx, hy⟩ => h (Prod.ext hx hy ▸ hq))

/-- With no pixel listed twice, exactly those listed are toggled (R232). -/
theorem pixel_plotAll (hl : l.Nodup) (d : Canvas) (x : Fin 64) (y : Fin 32) :
    (plotAll l d).fb.pixel x y = if (x, y) ∈ l then !d.fb.pixel x y else d.fb.pixel x y := by
  induction l generalizing d with
  | nil => rfl
  | cons p l ih =>
    obtain ⟨hp, hl⟩ := List.nodup_cons.mp hl
    rw [plotAll_cons, ih hl]
    by_cases hmem : (x, y) ∈ l
    · rw [if_pos hmem, if_pos (List.mem_cons_of_mem p hmem), pixel_plot_of_notMem hp d hmem]
    · rw [if_neg hmem]
      obtain rfl | hne := eq_or_ne (x, y) p
      · simp [plot, pixel_toggle]
      · have hxy : ¬(x = p.1 ∧ y = p.2) := fun ⟨hx, hy⟩ => hne (Prod.ext hx hy)
        simp [plot, pixel_toggle, hxy, hne, hmem]

/-- With no pixel listed twice, the collision says whether one of those listed was on at the start, and not
whether an earlier toggle turned one on (R232, R235). -/
theorem col_plotAll_iff (hl : l.Nodup) (d : Canvas) :
    (plotAll l d).col = true ↔ d.col = true ∨ ∃ p ∈ l, d.fb.pixel p.1 p.2 = true := by
  induction l generalizing d with
  | nil => exact (or_iff_left nofun).symm
  | cons p l ih =>
    obtain ⟨hp, hl⟩ := List.nodup_cons.mp hl
    have hcol : (plot p.1 p.2 d).col = true ↔ d.col = true ∨ d.fb.pixel p.1 p.2 = true :=
      Bool.or_eq_true_iff
    have hrest : (∃ q ∈ l, (plot p.1 p.2 d).fb.pixel q.1 q.2 = true) ↔
        ∃ q ∈ l, d.fb.pixel q.1 q.2 = true :=
      exists_congr fun q => and_congr_right fun hq => by rw [pixel_plot_of_notMem hp d hq]
    rw [plotAll_cons, ih hl, hcol, hrest, List.exists_mem_cons_iff, or_assoc]

end

/-! ### The pixels of a sprite -/

/-- The pixels under the set bits of sprite row `r` with byte `row` (R231, R233). -/
def rowPixels (cx cy : Byte) (r : Nat) (row : Byte) : List (Fin 64 × Fin 32) :=
  ((List.range 8).filter (spriteBit row)).map fun c => (wrapX cx c, wrapY cy r)

/-- The pixels under the set bits of the sprite rows from `r` on. -/
def spritePixels (cx cy : Byte) (r : Nat) : List Byte → List (Fin 64 × Fin 32)
  | [] => []
  | row :: rows => rowPixels cx cy r row ++ spritePixels cx cy (r + 1) rows

section
variable (cx cy : Byte)

theorem drawRow_eq_plotAll (r : Nat) (row : Byte) (d : Canvas) :
    drawRow cx cy r row d = plotAll (rowPixels cx cy r row) d := by
  rw [drawRow, plotAll, rowPixels, List.foldl_map, List.foldl_filter]

theorem drawRows_eq_plotAll (r : Nat) (rows : List Byte) (d : Canvas) :
    drawRows cx cy r rows d = plotAll (spritePixels cx cy r rows) d := by
  induction rows generalizing r d with
  | nil => rfl
  | cons row rows ih => rw [drawRows, ih, drawRow_eq_plotAll, spritePixels, plotAll_append]

theorem mem_rowPixels {r : Nat} {row : Byte} {p : Fin 64 × Fin 32} :
    p ∈ rowPixels cx cy r row ↔ ∃ c < 8, spriteBit row c = true ∧ (wrapX cx c, wrapY cy r) = p := by
  simp [rowPixels, and_assoc]

theorem mem_spritePixels {r : Nat} {rows : List Byte} {p : Fin 64 × Fin 32} :
    p ∈ spritePixels cx cy r rows ↔
      ∃ k < rows.length, p ∈ rowPixels cx cy (r + k) (rows.getD k 0) := by
  induction rows generalizing r with
  | nil => simp [spritePixels]
  | cons row rows ih =>
    rw [spritePixels, List.mem_append, ih, List.length_cons, Nat.exists_lt_succ_left]
    simp [Nat.add_right_comm, Nat.add_assoc]

/-- The columns of a sprite are fewer than those of the picture, so no two wrap onto each other (R231). -/
theorem wrapX_inj {c c' : Nat} (hc : c < 8) (hc' : c' < 8) (h : wrapX cx c = wrapX cx c') : c = c' := by
  have : (cx.toNat + c) % 64 = (cx.toNat + c') % 64 := congrArg Fin.val h
  omega

/-- A row does not wrap onto a later one that is less than the height of the picture below it (R231). -/
theorem wrapY_ne {r k : Nat} (hk : k < 31) : wrapY cy r ≠ wrapY cy (r + 1 + k) := fun h => by
  have : (cy.toNat + r) % 32 = (cy.toNat + (r + 1 + k)) % 32 := congrArg Fin.val h
  omega

theorem nodup_rowPixels (r : Nat) (row : Byte) : (rowPixels cx cy r row).Nodup :=
  (List.nodup_range.filter _).map_on fun _ hc _ hc' h =>
    wrapX_inj cx (List.mem_range.mp (List.mem_of_mem_filter hc))
      (List.mem_range.mp (List.mem_of_mem_filter hc')) (congrArg Prod.fst h)

/-- No pixel lies under two bits of a sprite that is no taller than the picture. -/
theorem nodup_spritePixels {r : Nat} {rows : List Byte} (h : rows.length ≤ 32) :
    (spritePixels cx cy r rows).Nodup := by
  induction rows generalizing r with
  | nil => exact List.nodup_nil
  | cons row rows ih =>
    rw [List.length_cons] at h
    refine (nodup_rowPixels cx cy r row).append (ih (by omega)) fun p hp hp' => ?_
    obtain ⟨_, -, -, rfl⟩ := (mem_rowPixels cx cy).mp hp
    obtain ⟨k, hk, hp'⟩ := (mem_spritePixels cx cy).mp hp'
    obtain ⟨_, -, -, he⟩ := (mem_rowPixels cx cy).mp hp'
    exact wrapY_ne cy (by omega) (congrArg Prod.snd he).symm

end

/-! ### What drawing does to the picture and to VF -/

section
variable (s : State) (x y n : Nibble)

/-- The sprite covers exactly the pixels that drawing it plots. -/
theorem spriteCovers_iff_mem (px : Fin 64) (py : Fin 32) :
    SpriteCovers s x y n px py ↔
      (px, py) ∈ spritePixels (s.reg x) (s.reg y) 0 (Memory.readBytes s.mem s.i.toNat n.toNat) := by
  rw [mem_spritePixels, Memory.length_readBytes]
  refine exists_congr fun r => and_congr_right fun hr => ?_
  rw [mem_rowPixels, Memory.getD_readBytes _ _ _ _ hr, Nat.zero_add]
  refine exists_congr fun c => and_congr_right fun _ => and_congr_right fun _ => ?_
  rw [Prod.mk.injEq, eq_comm (b := px), eq_comm (b := py), Fin.ext_iff, Fin.ext_iff]
  rfl

/-- A sprite covers the same pixels wherever its origin, its address and the bytes there are the same. -/
theorem spriteCovers_congr {s t : State} {x y : Nibble} (hx : t.reg x = s.reg x)
    (hy : t.reg y = s.reg y) (hi : t.i = s.i) (hm : SameMemory s t) (n : Nibble) (px : Fin 64)
    (py : Fin 32) : SpriteCovers t x y n px py ↔ SpriteCovers s x y n px py := by
  simp only [SpriteCovers, hx, hy, hi, hm _]

/-- A sprite has at most 15 rows, so drawing it plots no pixel twice. -/
theorem nodup_pixels_readBytes (cx cy : Byte) (m : Memory) (a : Nat) :
    (spritePixels cx cy 0 (Memory.readBytes m a n.toNat)).Nodup :=
  nodup_spritePixels cx cy (by rw [Memory.length_readBytes]; omega)

theorem pixel_spriteCanvas_of_covers {px : Fin 64} {py : Fin 32} (h : SpriteCovers s x y n px py) :
    (spriteCanvas s x y n).fb.pixel px py = !s.fb.pixel px py := by
  rw [spriteCanvas, drawRows_eq_plotAll, pixel_plotAll (nodup_pixels_readBytes ..),
    if_pos ((spriteCovers_iff_mem ..).mp h)]

theorem pixel_spriteCanvas_of_not_covers {px : Fin 64} {py : Fin 32}
    (h : ¬SpriteCovers s x y n px py) : (spriteCanvas s x y n).fb.pixel px py = s.fb.pixel px py := by
  rw [spriteCanvas, drawRows_eq_plotAll, pixel_plotAll (nodup_pixels_readBytes ..),
    if_neg (mt (spriteCovers_iff_mem ..).mpr h)]

theorem col_spriteCanvas_iff :
    (spriteCanvas s x y n).col = true ↔
      ∃ px py, SpriteCovers s x y n px py ∧ s.fb.pixel px py = true := by
  rw [spriteCanvas, drawRows_eq_plotAll, col_plotAll_iff (nodup_pixels_readBytes ..), Prod.exists]
  simp only [spriteCovers_iff_mem, Bool.false_eq_true, false_or]

/-- A commit after a write of the picture and general registers changes those, PC, the ticking timers and the
result alone. -/
theorem onlyPictureRegs_retire (fb : Frame) (v : Regs) (op : Word) (w : Bool) (p : Word) :
    OnlyPictureRegs s ({ s with fb := fb, v := v }.retire op w p) :=
  ⟨fun _ => rfl, rfl, rfl, rfl, ⟨toNat_tick s.dt, toNat_tick s.st⟩, rfl, rfl, rfl, rfl, rfl, rfl⟩

end

/-! ### The statements -/

/-- Settles O30, by the two ways DRW can end: the covered pixels are plotted, each once, and VF is written
last, or the read raises. -/
theorem drawTogglesCoveredPixels : Obligations.DrawTogglesCoveredPixels := by
  unfold Obligations.DrawTogglesCoveredPixels
  refine ⟨encodedBy_class 0xD fun _ ht => nibbles_word_eq ht rfl, fun x y n s => ?_⟩
  obtain ⟨hfits, h⟩ | ⟨⟨hrows, hgt⟩, h⟩ := execDrw_cases x y n s
  · have hVF := (reg_setVF (s.setFb (spriteCanvas s x y n).fb) 15
      (flagByte (spriteCanvas s x y n).col)).trans (if_pos rfl)
    refine ⟨fun _ => ⟨_, ⟨h, rfl, rfl⟩, fun _ _ => pixel_spriteCanvas_of_covers s x y n,
      fun _ _ => pixel_spriteCanvas_of_not_covers s x y n, fun hon => ?_, fun hoff => ?_,
      fun k hk => (reg_setVF _ k _).trans (if_neg hk), onlyPictureRegs_retire s _ _ _ _ _⟩,
      fun _ _ => by omega⟩
    · exact hVF.trans (if_pos ((col_spriteCanvas_iff s x y n).mpr hon))
    · exact hVF.trans (if_neg (mt (col_spriteCanvas_iff s x y n).mp hoff))
  · exact ⟨fun _ => by omega, fun _ _ => h⟩

/-- Settles O31: both draws cover the same pixels, so each of these is toggled twice, and those on at the
second draw are those off at the first. -/
theorem drawTwiceRestoresPicture : Obligations.DrawTwiceRestoresPicture := by
  unfold Obligations.DrawTwiceRestoresPicture
  intro x y n s t w hfits hs hx hy ht
  obtain ⟨-, hdraw⟩ := drawTogglesCoveredPixels
  obtain ⟨t', ⟨hs', -⟩, hcov, hout, -, -, -, hmem, hi, -⟩ := (hdraw x y n s).1 hfits
  obtain rfl := Host.Outcome.next.inj (hs.symm.trans hs')
  obtain ⟨w', ⟨ht', -⟩, hcov', hout', hVF1, hVF0, -⟩ := (hdraw x y n t).1 (by rwa [hi])
  obtain rfl := Host.Outcome.next.inj (ht.symm.trans ht')
  simp only [spriteCovers_congr hx hy hi hmem] at hcov' hout' hVF1 hVF0
  have hoff : (∃ px py, SpriteCovers s x y n px py ∧ s.fb.pixel px py = false) ↔
      ∃ px py, SpriteCovers s x y n px py ∧ t.fb.pixel px py = true :=
    exists₂_congr fun px py => and_congr_right fun h => by rw [hcov px py h, Bool.not_eq_true']
  refine ⟨fun px py => ?_, hVF1 ∘ hoff.mp, hVF0 ∘ mt hoff.mpr⟩
  by_cases h : SpriteCovers s x y n px py
  · rw [hcov' px py h, hcov px py h, Bool.not_not]
  · rw [hout' px py h, hout px py h]

/-- Settles O29: the blank picture is the one thing written. -/
theorem clsBlanksPicture : Obligations.ClsBlanksPicture := by
  unfold Obligations.ClsBlanksPicture
  refine ⟨encodedBy_functionByte 0x0 0xE0 fun _ => byte_word_eq, fun u s => ?_⟩
  exact ⟨_, ⟨rfl, rfl, rfl⟩, pixel_blank, fun _ => rfl, onlyPictureRegs_retire s _ _ _ _ _⟩

end Sys2Proof.Machine
end

section
/-! Keys and timers (45_input_timers.md): the PC a skip on a key commits, and what a write of a timer leaves
unchanged. -/

namespace Sys2Proof.Machine

/-! ### The PC a skip commits, and a timer written -/

/-- A skip for when `c` fails commits the same two next PCs the other way round (R150). -/
theorem skipPc_not (s : State) (c : Bool) :
    s.skipPc (!c) = if c then s.pc + 2 else s.pc + 4 := by
  cases c <;> rfl

/-- An instruction that leaves `d` and `e` in the timers and writes nothing else completes with each of them
ticked once (R132). -/
theorem completes_setTimers {i : Instr} {s : State} {d e : Byte}
    (h : exec i s = .next ({ s with dt := d, st := e }.retire (encode i) false s.nextPc)) :
    ∃ t, Completes i false (s.pc + 2) s t ∧ t.dt.toNat = d.toNat - 1 ∧ t.st.toNat = e.toNat - 1 ∧
      SameRegs s t ∧ SameMemory s t ∧ SamePicture s t ∧ t.i = s.i ∧ t.stack = s.stack ∧
      t.kw = s.kw ∧ SameInputs s t :=
  ⟨_, ⟨h, rfl, rfl⟩, toNat_tick d, toNat_tick e, fun _ => rfl, fun _ => rfl, fun _ _ => rfl,
    rfl, rfl, rfl, rfl, rfl, rfl, rfl, rfl, rfl⟩

/-! ### The statements -/

/-- Settles O32: both skips look at the same key index, so they commit only PC together or raise together. -/
theorem keySkips : Obligations.KeySkips := by
  unfold Obligations.KeySkips
  refine ⟨encodedBy_functionByte 0xE 0x9E fun _ => byte_word_eq,
    encodedBy_functionByte 0xE 0xA1 fun _ => byte_word_eq, fun x s => ?_⟩
  obtain ⟨hle, hskp⟩ | ⟨hgt, hskp⟩ := execSkp_cases x s
  · obtain ⟨-, hsknp⟩ | ⟨hgt, -⟩ := execSknp_cases x s
    · refine ⟨fun _ => ⟨completes_onlyPc hskp, ?_⟩, fun _ => by omega⟩
      rw [skipPc_not] at hsknp
      exact completes_onlyPc hsknp
    · omega
  · obtain ⟨hle, -⟩ | ⟨-, hsknp⟩ := execSknp_cases x s
    · omega
    · exact ⟨fun _ => by omega, fun _ => ⟨hskp, hsknp⟩⟩

/-- Settles O33: the latch is the one thing written, and the meaning does not read the keys. -/
theorem keyWaitEntered : Obligations.KeyWaitEntered := by
  unfold Obligations.KeyWaitEntered
  refine ⟨encodedBy_functionByte 0xF 0x0A fun _ => byte_word_eq, fun x s => ?_⟩
  exact ⟨_, ⟨rfl, rfl, rfl⟩, rfl, fun _ => rfl, fun _ => rfl, fun _ _ => rfl, rfl, rfl,
    ⟨toNat_tick s.dt, toNat_tick s.st⟩, rfl, rfl, rfl, rfl, rfl, rfl⟩

/-- Settles O34: the commit ticks the timers the writes left, so DT is read before the tick and a timer set is
ticked in the same step. -/
theorem timerReadAndSet : Obligations.TimerReadAndSet := by
  unfold Obligations.TimerReadAndSet
  refine ⟨encodedBy_functionByte 0xF 0x07 fun _ => byte_word_eq,
    encodedBy_functionByte 0xF 0x15 fun _ => byte_word_eq,
    encodedBy_functionByte 0xF 0x18 fun _ => byte_word_eq, fun x s => ⟨?_, ?_, ?_⟩⟩
  · exact ⟨_, ⟨rfl, rfl, rfl⟩, fun k => reg_setReg s x k s.dt, onlyRegs_retire s _ _ _ _⟩
  · exact completes_setTimers rfl
  · obtain ⟨t, hc, hdt, hst, hsame⟩ :=
      completes_setTimers (i := .ldStVx x) (s := s) (d := s.dt) (e := s.reg x) rfl
    exact ⟨t, hc, hst, hdt, hsame⟩

end Sys2Proof.Machine
end

section
/-! Faults (60_exceptions.md): what the step that raises one leaves (R302, R303), and the runs that start with
one latched (R304). -/

namespace Sys2Proof.Machine

/-! ### The step that raises a fault -/

/-- The latch of a core with no fault is written by a faulting step alone, which keeps no other write and
records the PC it started at (R302, R303). -/
theorem transition_latches_fault {keys : Keys} {rnd : Byte} {s t : State} {f : FaultRecord}
    (htr : Transition keys rnd s t) (hnone : s.fault = none) (hsome : t.fault = some f) :
    t = s.faulted f ∧ f.pc = s.pc := by
  have hwritten : t.fault ≠ s.fault := by rw [hnone, hsome]; exact Option.some_ne_none f
  cases htr with
  | faulted c op hl hf hw =>
    obtain rfl := Option.some.inj hsome
    exact ⟨rfl, rfl⟩
  | executed i w hr hd hok => exact absurd (written_fault i (s.latched keys rnd)) hwritten
  | notLoaded | halted | idle | resumed | unknown => exact absurd rfl hwritten

/-! ### The steps after a fault -/

theorem runWith_cons_of_next {keys : Keys} {rnd : Byte} {s t : State}
    (h : stepWith keys rnd s = .next t) (rest : List (Keys × Byte)) :
    runWith ((keys, rnd) :: rest) s = runWith rest t := by
  rw [runWith, h]

/-- A halted core reports the same record on every step, and the report of the last step replaces that of
the one before it (R121, R304). -/
theorem runWith_cons_of_fault (input : Keys × Byte) (rest : List (Keys × Byte)) {s : State}
    (hl : s.loaded = true) {f : FaultRecord} (hf : s.fault = some f) :
    runWith (input :: rest) s = .next (s.report (.halted f)) := by
  induction rest generalizing input s with
  | nil => exact runWith_cons_of_next (stepWith_of_fault input.1 input.2 hl hf) []
  | cons input' rest ih =>
    calc runWith (input :: input' :: rest) s
      _ = runWith (input' :: rest) (s.report (.halted f)) :=
        runWith_cons_of_next (stepWith_of_fault input.1 input.2 hl hf) _
      _ = .next ((s.report (.halted f)).report (.halted f)) := ih input' hl hf
      _ = .next (s.report (.halted f)) := rfl

/-! ### The statements -/

/-- Settles O41: of the transitions of a step, only the faulting one writes the latch. -/
theorem faultingStepKeepsOnlyLatch : Obligations.FaultingStepKeepsOnlyLatch := by
  unfold Obligations.FaultingStepKeepsOnlyLatch
  exact fun keys rnd s t f hnone hstep hsome =>
    transition_latches_fault (transition_of_stepWith hstep) hnone hsome

/-- Settles O42, by induction over the inputs: each step leaves the latch for the next to halt on. -/
theorem faultLatchIsPermanent : Obligations.FaultLatchIsPermanent := by
  unfold Obligations.FaultLatchIsPermanent
  intro s f hl hf inputs hne
  obtain ⟨input, rest, rfl⟩ := List.exists_cons_of_ne_nil hne
  exact runWith_cons_of_fault input rest hl hf

end Sys2Proof.Machine
end

section
/-! Program load (70_reset_and_hazards.md R341, R342): the two ways a load can end, and the invariant after
either. -/

namespace Sys2Proof.Machine

section
variable {rom : Image} (s : State)

theorem loadProgram_of_le (h : rom.length ≤ 3584) :
    loadProgram rom s =
      (.ok, { s.construct with mem := Memory.writeBytes s.construct.mem 512 rom, loaded := true }) :=
  if_pos (decide_eq_true h)

theorem loadProgram_of_gt (h : 3584 < rom.length) : loadProgram rom s = (.programTooLarge, s.construct) :=
  if_neg fun hfits => Nat.not_le.mpr h (of_decide_eq_true hfits)

/-- The invariant speaks of none of the fields in which `construct` differs from reset. -/
theorem construct_inv : s.construct.Inv := resetMeetsInvariant.of_same_fields rfl rfl rfl rfl rfl rfl

end

/-- Settles O60: what the failed load leaves is not loaded, so the first guard answers the next step. -/
theorem loadTooLargeLeavesConstruction : Obligations.LoadTooLargeLeavesConstruction := by
  unfold Obligations.LoadTooLargeLeavesConstruction
  intro rom s hlen
  rw [loadProgram_of_gt s hlen]
  exact ⟨rfl, fun keys rnd => ⟨_, stepWith_of_not_loaded keys rnd rfl, rfl⟩⟩

/-- Settles O48: a load that fits writes its image inside memory, which ends 3584 bytes past 512, and a load
that fails leaves the construction state. -/
theorem loadMeetsInvariant : Obligations.LoadMeetsInvariant := by
  unfold Obligations.LoadMeetsInvariant
  intro rom s
  obtain hlen | hlen := Nat.lt_or_ge 3584 rom.length
  · rw [loadProgram_of_gt s hlen]
    exact construct_inv s
  · rw [loadProgram_of_le s hlen]
    have hinside : 512 + rom.length ≤ Config.memSize := Nat.add_le_add_left hlen 512
    exact { construct_inv s with
      mem_canonical := Memory.wf_writeBytes rom s.construct.mem 512 hinside Memory.wf_reset }

end Sys2Proof.Machine
end

section
/-! The end of a run (70_reset_and_hazards.md R353): the states a run has ended in, which the step that ends it
reaches and no later step leaves. -/

namespace Sys2Proof.Machine

/-- The next step of `s` executes a jump to its own address (R353). -/
def AtSelfJump (nnn : Addr) (s : State) : Prop :=
  ReadyToExecute s ∧ decodeWord (wordAtPc s) = .ok (.jp nnn) ∧ zext nnn = s.pc

/-- The run has ended: the core has halted on a fault or is at a jump to its own address (R353). -/
def RunEnded (s : State) : Prop :=
  (s.loaded = true ∧ ∃ f, s.fault = some f) ∨ ∃ nnn, AtSelfJump nnn s

/-! ### The step that ends a run -/

/-- Of the executed instructions, only a jump to its own address ends a run. -/
theorem endsRun_executed_iff {s t : State} {i : Instr} {w : Bool}
    (hres : t.result = some (.executed (encode i) w)) :
    endsRun s t = true ↔ ∃ nnn, i = .jp nnn ∧ zext nnn = s.pc := by
  rw [endsRun, hres]
  dsimp only
  rw [decodeOfEncode i]
  cases i
  case jp nnn =>
    exact beq_iff_eq.trans ⟨fun hpc => ⟨nnn, rfl, hpc⟩, fun ⟨_, hi, hpc⟩ => Instr.jp.inj hi ▸ hpc⟩
  all_goals exact iff_of_false nofun fun ⟨_, hi, _⟩ => nomatch hi

/-- An executed unknown word ends no run. -/
theorem endsRun_of_unknown {s t : State} {op : Word} {w : Bool} {e : Reject}
    (hres : t.result = some (.executed op w)) (hd : decodeWord op = .error e) : endsRun s t = false := by
  rw [endsRun, hres]
  dsimp only
  rw [hd]

/-- The step that ends a run leaves a state in which it has ended: a fault is latched, or the jump has put PC
back at the same jump. -/
theorem runEnded_of_endsRun {keys : Keys} {rnd : Byte} {s t : State} (htr : Transition keys rnd s t)
    (hend : endsRun s t = true) : RunEnded t := by
  cases htr with
  | halted f hl hf => exact .inl ⟨hl, f, hf⟩
  | faulted c op hl hf hw => exact .inl ⟨hl, _, rfl⟩
  | executed i w hr hd hok =>
    obtain ⟨nnn, rfl, hpc⟩ := (endsRun_executed_iff rfl).mp hend
    refine .inr ⟨nnn, ?_⟩
    change AtSelfJump nnn ((s.latched keys rnd).retire (encode (.jp nnn)) w (zext nnn))
    rw [hpc]
    exact ⟨hr, hd, hpc⟩
  | unknown e hr hd hs => exact absurd (hend.symm.trans (endsRun_of_unknown rfl hd)) nofun
  | notLoaded | idle | resumed => cases hend

/-! ### The steps after it -/

theorem stepWith_of_selfJump (keys : Keys) (rnd : Byte) {s : State} {nnn : Addr}
    (h : AtSelfJump nnn s) :
    stepWith keys rnd s = .next ((s.latched keys rnd).retire (encode (.jp nnn)) false s.pc) := by
  obtain ⟨hr, hd, hpc⟩ := h
  obtain ⟨-, hf, -, -⟩ := id hr
  rw [stepWith_of_ready keys rnd hr, execWord_of_ok hd, ← hpc]
  exact commit_of_no_fault s rfl hf

/-- Settles O55: the step that ends the run leaves a fault to halt on or a jump to make again, and neither step
writes anything but timers, latched inputs and the result. -/
theorem endedRunStaysEnded : Obligations.EndedRunStaysEnded := by
  unfold Obligations.EndedRunStaysEnded
  intro keys keys' rnd rnd' s t hstep hend
  obtain ⟨hl, f, hf⟩ | ⟨nnn, hjump⟩ := runEnded_of_endsRun (transition_of_stepWith hstep) hend
  · exact ⟨_, stepWith_of_fault keys' rnd' hl hf, rfl, rfl, rfl, rfl, rfl, rfl, rfl, rfl, rfl⟩
  · obtain ⟨-, -, hpc⟩ := id hjump
    exact ⟨_, stepWith_of_selfJump keys' rnd' hjump, (endsRun_executed_iff rfl).mpr ⟨nnn, rfl, hpc⟩,
      rfl, rfl, rfl, rfl, rfl, rfl, rfl, rfl⟩

end Sys2Proof.Machine
end
